-- ==== Sys2Proof/Word.lean ====
section
/-! DEFINITION. The word types of the block: registers, addresses, immediates (spec R7), memory bytes (R51) and
register numbers (R21). -/

namespace Sys2Proof

/-- A register value, an address or a decoded immediate: a 32-bit vector (R7, XLEN of R5). -/
abbrev Word := BitVec 32

/-- One memory cell's contents (R51). -/
abbrev Byte := BitVec 8

/-- A 5-bit register field; every value names a register (R21). -/
abbrev RegIdx := BitVec 5

end Sys2Proof
end

