-- ==== Sys2Proof/Config.lean ====
section
/-! DEFINITION. The parameters fixed when the block is constructed (spec R5, R39), their legal range and defaults,
and the one free value the spec leaves open to each run (`CSR_RDATA`, R5, R295). -/

namespace Sys2Proof

/-- The construction parameters of R5. -/
structure Config where
  /-- `MSIZE`: the memory size in bytes. -/
  msize : Nat
  /-- `HALT_ON_ILLEGAL`: whether a decode error or a fetch out of range halts the block (R131, R132). -/
  haltOnIllegal : Bool
  /-- `REG0_HARDWIRED`: whether `x[0]` reads 0 and discards writes (R22). -/
  reg0Hardwired : Bool
  /-- `RESET_PC`: the address of the first fetch (R351). -/
  resetPc : Word
deriving DecidableEq, Repr

namespace Config

/-- The defaults of R5. `REG0_HARDWIRED` and `RESET_PC` have the spec's own defaults (D1, D4), which the source
does not give: log entry 1. -/
def standard : Config :=
  { msize := 4096, haltOnIllegal := true, reg0Hardwired := true, resetPc := 0#32 }

/-- The legal range of `MSIZE`, 1 to 2^32 (R5, D2). -/
def wf (c : Config) : Bool :=
  decide (1 ≤ c.msize) && decide (c.msize ≤ 2 ^ 32)

/-- FREE VALUE (R295, D17; DESIGN CHOICE of its form, log entry 5): the word the external CSR space answers with at
the `n`-th draw. It has no body: nothing can be proved about which word it is. -/
opaque csrRdata : Nat → Word

end Config

end Sys2Proof
end

