-- ==== Sys2Proof/Syntax.lean ====
section
/-! DEFINITION. The instruction set: one constructor for each of the 47 rows of spec/opcode_table.json (spec R2),
in the order of the dispatch table R93. Immediates are held as the decoder delivers them, 32 bits wide (R7, R91);
WellFormed.lean says which of them an encoding can carry. -/

namespace Sys2Proof

/-- The 47 instructions of R2 with the operands their rules name. -/
inductive Instr where
  /-- R150: `x[rd] <- imm_U`. -/
  | lui (rd : RegIdx) (immU : Word)
  /-- R151: `x[rd] <- pc + imm_U`. -/
  | auipc (rd : RegIdx) (immU : Word)
  /-- R170: jump and link to `pc + imm_J`. -/
  | jal (rd : RegIdx) (immJ : Word)
  /-- R171: jump and link to `x[rs1] + imm_I`. -/
  | jalr (rd rs1 : RegIdx) (immI : Word)
  /-- R173. -/
  | beq (rs1 rs2 : RegIdx) (immB : Word)
  /-- R174. -/
  | bne (rs1 rs2 : RegIdx) (immB : Word)
  /-- R175. -/
  | blt (rs1 rs2 : RegIdx) (immB : Word)
  /-- R176. -/
  | bge (rs1 rs2 : RegIdx) (immB : Word)
  /-- R177. -/
  | bltu (rs1 rs2 : RegIdx) (immB : Word)
  /-- R178. -/
  | bgeu (rs1 rs2 : RegIdx) (immB : Word)
  /-- R201. -/
  | lb (rd rs1 : RegIdx) (immI : Word)
  /-- R202. -/
  | lh (rd rs1 : RegIdx) (immI : Word)
  /-- R203. -/
  | lw (rd rs1 : RegIdx) (immI : Word)
  /-- R204. -/
  | lbu (rd rs1 : RegIdx) (immI : Word)
  /-- R205. -/
  | lhu (rd rs1 : RegIdx) (immI : Word)
  /-- R207: `x[rs2]` is stored at `x[rs1] + imm_S`. -/
  | sb (rs1 rs2 : RegIdx) (immS : Word)
  /-- R208. -/
  | sh (rs1 rs2 : RegIdx) (immS : Word)
  /-- R209. -/
  | sw (rs1 rs2 : RegIdx) (immS : Word)
  /-- R231. -/
  | addi (rd rs1 : RegIdx) (immI : Word)
  /-- R232. -/
  | slti (rd rs1 : RegIdx) (immI : Word)
  /-- R233. -/
  | sltiu (rd rs1 : RegIdx) (immI : Word)
  /-- R234. -/
  | xori (rd rs1 : RegIdx) (immI : Word)
  /-- R235. -/
  | ori (rd rs1 : RegIdx) (immI : Word)
  /-- R236. -/
  | andi (rd rs1 : RegIdx) (immI : Word)
  /-- R237. -/
  | slli (rd rs1 : RegIdx) (shamt : BitVec 5)
  /-- R238. -/
  | srli (rd rs1 : RegIdx) (shamt : BitVec 5)
  /-- R239. -/
  | srai (rd rs1 : RegIdx) (shamt : BitVec 5)
  /-- R261. -/
  | add (rd rs1 rs2 : RegIdx)
  /-- R262. -/
  | sub (rd rs1 rs2 : RegIdx)
  /-- R263. -/
  | sll (rd rs1 rs2 : RegIdx)
  /-- R264. -/
  | slt (rd rs1 rs2 : RegIdx)
  /-- R265. -/
  | sltu (rd rs1 rs2 : RegIdx)
  /-- R266. -/
  | xor (rd rs1 rs2 : RegIdx)
  /-- R267. -/
  | srl (rd rs1 rs2 : RegIdx)
  /-- R268. -/
  | sra (rd rs1 rs2 : RegIdx)
  /-- R269. -/
  | or (rd rs1 rs2 : RegIdx)
  /-- R270. -/
  | and (rd rs1 rs2 : RegIdx)
  /-- R290. Its three fields are carried so that no bit of the word is lost; they are ignored (log entry 12). -/
  | fence (rd rs1 : RegIdx) (fields : BitVec 12)
  /-- R291. Its three fields are ignored too. -/
  | fenceI (rd rs1 : RegIdx) (fields : BitVec 12)
  /-- R293. -/
  | ecall
  /-- R294. -/
  | ebreak
  /-- R296. -/
  | csrrw (rd : RegIdx) (csr : BitVec 12) (rs1 : RegIdx)
  /-- R297. -/
  | csrrs (rd : RegIdx) (csr : BitVec 12) (rs1 : RegIdx)
  /-- R298. -/
  | csrrc (rd : RegIdx) (csr : BitVec 12) (rs1 : RegIdx)
  /-- R299. -/
  | csrrwi (rd : RegIdx) (csr : BitVec 12) (zimm : Word)
  /-- R300. -/
  | csrrsi (rd : RegIdx) (csr : BitVec 12) (zimm : Word)
  /-- R301. -/
  | csrrci (rd : RegIdx) (csr : BitVec 12) (zimm : Word)
deriving DecidableEq, Repr

/-- The instruction's name in spec/opcode_table.json. -/
def Instr.mnemonic : Instr → String
  | .lui _ _ => "LUI"
  | .auipc _ _ => "AUIPC"
  | .jal _ _ => "JAL"
  | .jalr _ _ _ => "JALR"
  | .beq _ _ _ => "BEQ"
  | .bne _ _ _ => "BNE"
  | .blt _ _ _ => "BLT"
  | .bge _ _ _ => "BGE"
  | .bltu _ _ _ => "BLTU"
  | .bgeu _ _ _ => "BGEU"
  | .lb _ _ _ => "LB"
  | .lh _ _ _ => "LH"
  | .lw _ _ _ => "LW"
  | .lbu _ _ _ => "LBU"
  | .lhu _ _ _ => "LHU"
  | .sb _ _ _ => "SB"
  | .sh _ _ _ => "SH"
  | .sw _ _ _ => "SW"
  | .addi _ _ _ => "ADDI"
  | .slti _ _ _ => "SLTI"
  | .sltiu _ _ _ => "SLTIU"
  | .xori _ _ _ => "XORI"
  | .ori _ _ _ => "ORI"
  | .andi _ _ _ => "ANDI"
  | .slli _ _ _ => "SLLI"
  | .srli _ _ _ => "SRLI"
  | .srai _ _ _ => "SRAI"
  | .add _ _ _ => "ADD"
  | .sub _ _ _ => "SUB"
  | .sll _ _ _ => "SLL"
  | .slt _ _ _ => "SLT"
  | .sltu _ _ _ => "SLTU"
  | .xor _ _ _ => "XOR"
  | .srl _ _ _ => "SRL"
  | .sra _ _ _ => "SRA"
  | .or _ _ _ => "OR"
  | .and _ _ _ => "AND"
  | .fence _ _ _ => "FENCE"
  | .fenceI _ _ _ => "FENCE.I"
  | .ecall => "ECALL"
  | .ebreak => "EBREAK"
  | .csrrw _ _ _ => "CSRRW"
  | .csrrs _ _ _ => "CSRRS"
  | .csrrc _ _ _ => "CSRRC"
  | .csrrwi _ _ _ => "CSRRWI"
  | .csrrsi _ _ _ => "CSRRSI"
  | .csrrci _ _ _ => "CSRRCI"

end Sys2Proof
end

