-- ==== Sys2Proof/WellFormed.lean ====
section
/-! DEFINITION. Which instructions an encoding can carry: each immediate is a value its format's decoder can deliver
(spec R83 to R87, R89). Register numbers, shift amounts and CSR numbers are in range by their types. -/

namespace Sys2Proof

/-- `imm` is a 12-bit value widened by its sign: the range of `imm_I` and `imm_S` (R83, R84). -/
def fitsSigned12 (imm : Word) : Bool :=
  (imm.setWidth 12).signExtend 32 == imm

/-- `imm` is an even 13-bit value widened by its sign: the range of `imm_B` (R85). -/
def fitsBranch (imm : Word) : Bool :=
  (imm.setWidth 13).signExtend 32 == imm && !imm.getLsbD 0

/-- The low 12 bits of `imm` are zero: the values of `imm_U` (R86). -/
def fitsUpper (imm : Word) : Bool :=
  imm.setWidth 12 == 0#12

/-- `imm` is an even 21-bit value widened by its sign: the range of `imm_J` (R87). -/
def fitsJump (imm : Word) : Bool :=
  (imm.setWidth 21).signExtend 32 == imm && !imm.getLsbD 0

/-- `imm` is an unsigned 5-bit value: the range of `zimm` (R89). -/
def fitsZimm (imm : Word) : Bool :=
  (imm.setWidth 5).setWidth 32 == imm

/-- The instruction is one that some word encodes. -/
def Instr.wf : Instr → Bool
  | .lui _ imm => fitsUpper imm
  | .auipc _ imm => fitsUpper imm
  | .jal _ imm => fitsJump imm
  | .jalr _ _ imm => fitsSigned12 imm
  | .beq _ _ imm => fitsBranch imm
  | .bne _ _ imm => fitsBranch imm
  | .blt _ _ imm => fitsBranch imm
  | .bge _ _ imm => fitsBranch imm
  | .bltu _ _ imm => fitsBranch imm
  | .bgeu _ _ imm => fitsBranch imm
  | .lb _ _ imm => fitsSigned12 imm
  | .lh _ _ imm => fitsSigned12 imm
  | .lw _ _ imm => fitsSigned12 imm
  | .lbu _ _ imm => fitsSigned12 imm
  | .lhu _ _ imm => fitsSigned12 imm
  | .sb _ _ imm => fitsSigned12 imm
  | .sh _ _ imm => fitsSigned12 imm
  | .sw _ _ imm => fitsSigned12 imm
  | .addi _ _ imm => fitsSigned12 imm
  | .slti _ _ imm => fitsSigned12 imm
  | .sltiu _ _ imm => fitsSigned12 imm
  | .xori _ _ imm => fitsSigned12 imm
  | .ori _ _ imm => fitsSigned12 imm
  | .andi _ _ imm => fitsSigned12 imm
  | .slli _ _ _ => true
  | .srli _ _ _ => true
  | .srai _ _ _ => true
  | .add _ _ _ => true
  | .sub _ _ _ => true
  | .sll _ _ _ => true
  | .slt _ _ _ => true
  | .sltu _ _ _ => true
  | .xor _ _ _ => true
  | .srl _ _ _ => true
  | .sra _ _ _ => true
  | .or _ _ _ => true
  | .and _ _ _ => true
  | .fence _ _ _ => true
  | .fenceI _ _ _ => true
  | .ecall => true
  | .ebreak => true
  | .csrrw _ _ _ => true
  | .csrrs _ _ _ => true
  | .csrrc _ _ _ => true
  | .csrrwi _ _ zimm => fitsZimm zimm
  | .csrrsi _ _ zimm => fitsZimm zimm
  | .csrrci _ _ zimm => fitsZimm zimm

end Sys2Proof
end

