-- ==== Sys2Proof/Decode.lean ====
section
/-! DEFINITION. The decoder (spec R80 to R97): the total extraction of every field and immediate from a word, the
dispatch on opcode, funct3 and funct7 that rejects by name, and the encoder written from the same format table. -/

namespace Sys2Proof

/-! ## Field extraction (R81 to R89) -/

/-- `word[6:0]` (R81). -/
def opcodeOf (w : Word) : BitVec 7 := w.extractLsb' 0 7
/-- `word[11:7]` (R81). -/
def rdOf (w : Word) : RegIdx := w.extractLsb' 7 5
/-- `word[14:12]` (R81). -/
def funct3Of (w : Word) : BitVec 3 := w.extractLsb' 12 3
/-- `word[19:15]` (R81). -/
def rs1Of (w : Word) : RegIdx := w.extractLsb' 15 5
/-- `word[24:20]` (R81); it is also the shift amount (R88). -/
def rs2Of (w : Word) : RegIdx := w.extractLsb' 20 5
/-- `word[31:25]` (R81). -/
def funct7Of (w : Word) : BitVec 7 := w.extractLsb' 25 7
/-- `word[31:20]`: the raw I-type field (R83) and the CSR number (R89, C3). -/
def rawI (w : Word) : BitVec 12 := w.extractLsb' 20 12
/-- The raw S-type field (R84): word[31:25] above word[11:7]. -/
def rawS (w : Word) : BitVec 12 := w.extractLsb' 25 7 ++ w.extractLsb' 7 5
/-- The raw B-type field (R85): word[31], word[7], word[30:25], word[11:8], 0. -/
def rawB (w : Word) : BitVec 13 :=
  w.extractLsb' 31 1 ++ w.extractLsb' 7 1 ++ w.extractLsb' 25 6 ++ w.extractLsb' 8 4 ++ 0#1
/-- The raw J-type field (R87): word[31], word[19:12], word[20], word[30:21], 0. -/
def rawJ (w : Word) : BitVec 21 :=
  w.extractLsb' 31 1 ++ w.extractLsb' 12 8 ++ w.extractLsb' 20 1 ++ w.extractLsb' 21 10 ++ 0#1
/-- `word[31:12] << 12` (R86). -/
def immUOf (w : Word) : Word := w.extractLsb' 12 20 ++ 0#12

/-- The decoded instruction: every field of R91, whatever the opcode. -/
structure Decoded where
  opcode : BitVec 7
  rd : RegIdx
  rs1 : RegIdx
  rs2 : RegIdx
  funct3 : BitVec 3
  funct7 : BitVec 7
  shamt : BitVec 5
  /-- Sign-extended I-type immediate (R83). -/
  immI : Word
  /-- Zero-extended I-type immediate (R83); no instruction reads a zero-extended variant (R91). -/
  immIz : Word
  immS : Word
  immSz : Word
  immB : Word
  immBz : Word
  /-- U-type immediate; its two extended forms are one value (R86, D25). -/
  immU : Word
  immJ : Word
  immJz : Word
  /-- The 12-bit CSR number (R89, C3). -/
  csr : BitVec 12
  /-- The rs1 field as an unsigned immediate (R89). -/
  zimm : Word
deriving DecidableEq, Repr

/-- The decoder proper: a pure, total function of the word that never fails (R90). -/
def decodeFields (w : Word) : Decoded where
  opcode := opcodeOf w
  rd := rdOf w
  rs1 := rs1Of w
  rs2 := rs2Of w
  funct3 := funct3Of w
  funct7 := funct7Of w
  shamt := rs2Of w
  immI := (rawI w).signExtend 32
  immIz := (rawI w).setWidth 32
  immS := (rawS w).signExtend 32
  immSz := (rawS w).setWidth 32
  immB := (rawB w).signExtend 32
  immBz := (rawB w).setWidth 32
  immU := immUOf w
  immJ := (rawJ w).signExtend 32
  immJz := (rawJ w).setWidth 32
  csr := rawI w
  zimm := (rs1Of w).setWidth 32

/-! ## Dispatch (R92 to R97) -/

/-- The two ways dispatch rejects a word (R97). -/
inductive DecodeError where
  /-- The opcode is not one of the eleven of R92. -/
  | illegalInstruction
  /-- The opcode is one of the eleven and the other keys match no row of R93 (R94). -/
  | unknownSubopcode
deriving DecidableEq, Repr

/-- The verdict of the first row whose key is `key`, or `dflt` when no row has it. -/
def firstMatch {n : Nat} (key : BitVec n) (dflt : Except DecodeError Instr) :
    List (BitVec n × Except DecodeError Instr) → Except DecodeError Instr
  | [] => dflt
  | (k, verdict) :: rows => if key = k then verdict else firstMatch key dflt rows

/-- JALR checks its funct3 (R93, D13). -/
def dispatchJalr (d : Decoded) : Except DecodeError Instr :=
  firstMatch d.funct3 (.error .unknownSubopcode) [(0b000#3, .ok (.jalr d.rd d.rs1 d.immI))]

/-- BRANCH rows of R93. -/
def dispatchBranch (d : Decoded) : Except DecodeError Instr :=
  firstMatch d.funct3 (.error .unknownSubopcode) [
    (0b000#3, .ok (.beq d.rs1 d.rs2 d.immB)),
    (0b001#3, .ok (.bne d.rs1 d.rs2 d.immB)),
    (0b100#3, .ok (.blt d.rs1 d.rs2 d.immB)),
    (0b101#3, .ok (.bge d.rs1 d.rs2 d.immB)),
    (0b110#3, .ok (.bltu d.rs1 d.rs2 d.immB)),
    (0b111#3, .ok (.bgeu d.rs1 d.rs2 d.immB))]

/-- LOAD rows of R93. -/
def dispatchLoad (d : Decoded) : Except DecodeError Instr :=
  firstMatch d.funct3 (.error .unknownSubopcode) [
    (0b000#3, .ok (.lb d.rd d.rs1 d.immI)),
    (0b001#3, .ok (.lh d.rd d.rs1 d.immI)),
    (0b010#3, .ok (.lw d.rd d.rs1 d.immI)),
    (0b100#3, .ok (.lbu d.rd d.rs1 d.immI)),
    (0b101#3, .ok (.lhu d.rd d.rs1 d.immI))]

/-- STORE rows of R93. -/
def dispatchStore (d : Decoded) : Except DecodeError Instr :=
  firstMatch d.funct3 (.error .unknownSubopcode) [
    (0b000#3, .ok (.sb d.rs1 d.rs2 d.immS)),
    (0b001#3, .ok (.sh d.rs1 d.rs2 d.immS)),
    (0b010#3, .ok (.sw d.rs1 d.rs2 d.immS))]

/-- OP-IMM rows of R93; the shift immediates check funct7 (D12). -/
def dispatchOpImm (d : Decoded) : Except DecodeError Instr :=
  firstMatch d.funct3 (.error .unknownSubopcode) [
    (0b000#3, .ok (.addi d.rd d.rs1 d.immI)),
    (0b010#3, .ok (.slti d.rd d.rs1 d.immI)),
    (0b011#3, .ok (.sltiu d.rd d.rs1 d.immI)),
    (0b100#3, .ok (.xori d.rd d.rs1 d.immI)),
    (0b110#3, .ok (.ori d.rd d.rs1 d.immI)),
    (0b111#3, .ok (.andi d.rd d.rs1 d.immI)),
    (0b001#3, firstMatch d.funct7 (.error .unknownSubopcode) [
      (0b0000000#7, .ok (.slli d.rd d.rs1 d.shamt))]),
    (0b101#3, firstMatch d.funct7 (.error .unknownSubopcode) [
      (0b0000000#7, .ok (.srli d.rd d.rs1 d.shamt)),
      (0b0100000#7, .ok (.srai d.rd d.rs1 d.shamt))])]

/-- OP rows of R93; funct7 is checked on every one (D12). -/
def dispatchOp (d : Decoded) : Except DecodeError Instr :=
  firstMatch d.funct3 (.error .unknownSubopcode) [
    (0b000#3, firstMatch d.funct7 (.error .unknownSubopcode) [
      (0b0000000#7, .ok (.add d.rd d.rs1 d.rs2)),
      (0b0100000#7, .ok (.sub d.rd d.rs1 d.rs2))]),
    (0b001#3, firstMatch d.funct7 (.error .unknownSubopcode) [(0b0000000#7, .ok (.sll d.rd d.rs1 d.rs2))]),
    (0b010#3, firstMatch d.funct7 (.error .unknownSubopcode) [(0b0000000#7, .ok (.slt d.rd d.rs1 d.rs2))]),
    (0b011#3, firstMatch d.funct7 (.error .unknownSubopcode) [(0b0000000#7, .ok (.sltu d.rd d.rs1 d.rs2))]),
    (0b100#3, firstMatch d.funct7 (.error .unknownSubopcode) [(0b0000000#7, .ok (.xor d.rd d.rs1 d.rs2))]),
    (0b101#3, firstMatch d.funct7 (.error .unknownSubopcode) [
      (0b0000000#7, .ok (.srl d.rd d.rs1 d.rs2)),
      (0b0100000#7, .ok (.sra d.rd d.rs1 d.rs2))]),
    (0b110#3, firstMatch d.funct7 (.error .unknownSubopcode) [(0b0000000#7, .ok (.or d.rd d.rs1 d.rs2))]),
    (0b111#3, firstMatch d.funct7 (.error .unknownSubopcode) [(0b0000000#7, .ok (.and d.rd d.rs1 d.rs2))])]

/-- FENCES rows of R93; only funct3 is examined (D14). -/
def dispatchFences (d : Decoded) : Except DecodeError Instr :=
  firstMatch d.funct3 (.error .unknownSubopcode) [
    (0b000#3, .ok (.fence d.rd d.rs1 d.csr)),
    (0b001#3, .ok (.fenceI d.rd d.rs1 d.csr))]

/-- SYSTEM rows of R93 and R292; ECALL and EBREAK match whole words (D15). -/
def dispatchSystem (d : Decoded) (word : Word) : Except DecodeError Instr :=
  firstMatch d.funct3 (.error .unknownSubopcode) [
    (0b000#3, firstMatch word (.error .unknownSubopcode) [
      (0x00000073#32, .ok .ecall),
      (0x00100073#32, .ok .ebreak)]),
    (0b001#3, .ok (.csrrw d.rd d.csr d.rs1)),
    (0b010#3, .ok (.csrrs d.rd d.csr d.rs1)),
    (0b011#3, .ok (.csrrc d.rd d.csr d.rs1)),
    (0b101#3, .ok (.csrrwi d.rd d.csr d.zimm)),
    (0b110#3, .ok (.csrrsi d.rd d.csr d.zimm)),
    (0b111#3, .ok (.csrrci d.rd d.csr d.zimm))]

/-- Primary dispatch on the opcode (R92), then the group's own keys, in the order of R97. -/
def dispatch (d : Decoded) (word : Word) : Except DecodeError Instr :=
  firstMatch d.opcode (.error .illegalInstruction) [
    (0x37#7, .ok (.lui d.rd d.immU)),
    (0x17#7, .ok (.auipc d.rd d.immU)),
    (0x6F#7, .ok (.jal d.rd d.immJ)),
    (0x67#7, dispatchJalr d),
    (0x63#7, dispatchBranch d),
    (0x03#7, dispatchLoad d),
    (0x23#7, dispatchStore d),
    (0x13#7, dispatchOpImm d),
    (0x33#7, dispatchOp d),
    (0x0F#7, dispatchFences d),
    (0x73#7, dispatchSystem d word)]

/-- The action a word names (R126): one of the 47 instructions or one of the two errors. -/
def decode (w : Word) : Except DecodeError Instr :=
  dispatch (decodeFields w) w

/-- The word whose bytes lie in memory in the order `b0` to `b3` (little-endian, R54). -/
def wordOfBytes (b0 b1 b2 b3 : Byte) : Word := b3 ++ b2 ++ b1 ++ b0

/-- Decoding on any bytes: `none` when fewer than four are left (R80: every instruction is one 32-bit word), else
the verdict on the first word and the bytes after it. -/
def decodeBytes : List Byte → Option (Except DecodeError Instr × List Byte)
  | b0 :: b1 :: b2 :: b3 :: rest => some (decode (wordOfBytes b0 b1 b2 b3), rest)
  | _ => none

/-- The instruction the decoder reads from the table word `w` of `nbits` bits, every bit above them 0; none where it
refuses, or where the word is longer than this machine's instructions. -/
def decodeTableWord (nbits w : Nat) : Option Instr :=
  if nbits ≤ 32 then (decode (BitVec.ofNat 32 (w % 2 ^ nbits))).toOption else none

/-! ## Encoder, from the format table R82 and the keys of R93 -/

/-- R format. -/
def encodeR (funct7 : BitVec 7) (rs2 rs1 : RegIdx) (funct3 : BitVec 3) (rd : RegIdx) (opcode : BitVec 7) : Word :=
  funct7 ++ rs2 ++ rs1 ++ funct3 ++ rd ++ opcode

/-- I format with a raw 12-bit field. -/
def encodeRawI (field : BitVec 12) (rs1 : RegIdx) (funct3 : BitVec 3) (rd : RegIdx) (opcode : BitVec 7) : Word :=
  field ++ rs1 ++ funct3 ++ rd ++ opcode

/-- I format: `imm[11:0]` in bits 31..20. -/
def encodeI (imm : Word) (rs1 : RegIdx) (funct3 : BitVec 3) (rd : RegIdx) (opcode : BitVec 7) : Word :=
  encodeRawI (imm.extractLsb' 0 12) rs1 funct3 rd opcode

/-- S format: `imm[11:5]` in bits 31..25, `imm[4:0]` in bits 11..7. -/
def encodeS (imm : Word) (rs2 rs1 : RegIdx) (funct3 : BitVec 3) (opcode : BitVec 7) : Word :=
  imm.extractLsb' 5 7 ++ rs2 ++ rs1 ++ funct3 ++ imm.extractLsb' 0 5 ++ opcode

/-- B format: `imm[12]`, `imm[10:5]` in bits 31..25, `imm[4:1]`, `imm[11]` in bits 11..7. -/
def encodeB (imm : Word) (rs2 rs1 : RegIdx) (funct3 : BitVec 3) (opcode : BitVec 7) : Word :=
  imm.extractLsb' 12 1 ++ imm.extractLsb' 5 6 ++ rs2 ++ rs1 ++ funct3 ++
    imm.extractLsb' 1 4 ++ imm.extractLsb' 11 1 ++ opcode

/-- U format: `imm[31:12]` in bits 31..12. -/
def encodeU (imm : Word) (rd : RegIdx) (opcode : BitVec 7) : Word :=
  imm.extractLsb' 12 20 ++ rd ++ opcode

/-- J format: `imm[20]`, `imm[10:1]`, `imm[11]`, `imm[19:12]` in bits 31..12. -/
def encodeJ (imm : Word) (rd : RegIdx) (opcode : BitVec 7) : Word :=
  imm.extractLsb' 20 1 ++ imm.extractLsb' 1 10 ++ imm.extractLsb' 11 1 ++ imm.extractLsb' 12 8 ++ rd ++ opcode

/-- The word of an instruction. -/
def encode : Instr → Word
  | .lui rd imm => encodeU imm rd 0x37#7
  | .auipc rd imm => encodeU imm rd 0x17#7
  | .jal rd imm => encodeJ imm rd 0x6F#7
  | .jalr rd rs1 imm => encodeI imm rs1 0b000#3 rd 0x67#7
  | .beq rs1 rs2 imm => encodeB imm rs2 rs1 0b000#3 0x63#7
  | .bne rs1 rs2 imm => encodeB imm rs2 rs1 0b001#3 0x63#7
  | .blt rs1 rs2 imm => encodeB imm rs2 rs1 0b100#3 0x63#7
  | .bge rs1 rs2 imm => encodeB imm rs2 rs1 0b101#3 0x63#7
  | .bltu rs1 rs2 imm => encodeB imm rs2 rs1 0b110#3 0x63#7
  | .bgeu rs1 rs2 imm => encodeB imm rs2 rs1 0b111#3 0x63#7
  | .lb rd rs1 imm => encodeI imm rs1 0b000#3 rd 0x03#7
  | .lh rd rs1 imm => encodeI imm rs1 0b001#3 rd 0x03#7
  | .lw rd rs1 imm => encodeI imm rs1 0b010#3 rd 0x03#7
  | .lbu rd rs1 imm => encodeI imm rs1 0b100#3 rd 0x03#7
  | .lhu rd rs1 imm => encodeI imm rs1 0b101#3 rd 0x03#7
  | .sb rs1 rs2 imm => encodeS imm rs2 rs1 0b000#3 0x23#7
  | .sh rs1 rs2 imm => encodeS imm rs2 rs1 0b001#3 0x23#7
  | .sw rs1 rs2 imm => encodeS imm rs2 rs1 0b010#3 0x23#7
  | .addi rd rs1 imm => encodeI imm rs1 0b000#3 rd 0x13#7
  | .slti rd rs1 imm => encodeI imm rs1 0b010#3 rd 0x13#7
  | .sltiu rd rs1 imm => encodeI imm rs1 0b011#3 rd 0x13#7
  | .xori rd rs1 imm => encodeI imm rs1 0b100#3 rd 0x13#7
  | .ori rd rs1 imm => encodeI imm rs1 0b110#3 rd 0x13#7
  | .andi rd rs1 imm => encodeI imm rs1 0b111#3 rd 0x13#7
  | .slli rd rs1 shamt => encodeR 0b0000000#7 shamt rs1 0b001#3 rd 0x13#7
  | .srli rd rs1 shamt => encodeR 0b0000000#7 shamt rs1 0b101#3 rd 0x13#7
  | .srai rd rs1 shamt => encodeR 0b0100000#7 shamt rs1 0b101#3 rd 0x13#7
  | .add rd rs1 rs2 => encodeR 0b0000000#7 rs2 rs1 0b000#3 rd 0x33#7
  | .sub rd rs1 rs2 => encodeR 0b0100000#7 rs2 rs1 0b000#3 rd 0x33#7
  | .sll rd rs1 rs2 => encodeR 0b0000000#7 rs2 rs1 0b001#3 rd 0x33#7
  | .slt rd rs1 rs2 => encodeR 0b0000000#7 rs2 rs1 0b010#3 rd 0x33#7
  | .sltu rd rs1 rs2 => encodeR 0b0000000#7 rs2 rs1 0b011#3 rd 0x33#7
  | .xor rd rs1 rs2 => encodeR 0b0000000#7 rs2 rs1 0b100#3 rd 0x33#7
  | .srl rd rs1 rs2 => encodeR 0b0000000#7 rs2 rs1 0b101#3 rd 0x33#7
  | .sra rd rs1 rs2 => encodeR 0b0100000#7 rs2 rs1 0b101#3 rd 0x33#7
  | .or rd rs1 rs2 => encodeR 0b0000000#7 rs2 rs1 0b110#3 rd 0x33#7
  | .and rd rs1 rs2 => encodeR 0b0000000#7 rs2 rs1 0b111#3 rd 0x33#7
  | .fence rd rs1 fields => encodeRawI fields rs1 0b000#3 rd 0x0F#7
  | .fenceI rd rs1 fields => encodeRawI fields rs1 0b001#3 rd 0x0F#7
  | .ecall => 0x00000073#32
  | .ebreak => 0x00100073#32
  | .csrrw rd csr rs1 => encodeRawI csr rs1 0b001#3 rd 0x73#7
  | .csrrs rd csr rs1 => encodeRawI csr rs1 0b010#3 rd 0x73#7
  | .csrrc rd csr rs1 => encodeRawI csr rs1 0b011#3 rd 0x73#7
  | .csrrwi rd csr zimm => encodeRawI csr (zimm.extractLsb' 0 5) 0b101#3 rd 0x73#7
  | .csrrsi rd csr zimm => encodeRawI csr (zimm.extractLsb' 0 5) 0b110#3 rd 0x73#7
  | .csrrci rd csr zimm => encodeRawI csr (zimm.extractLsb' 0 5) 0b111#3 rd 0x73#7

end Sys2Proof
end

