-- ==== Sys2Proof/Machine/State.lean ====
section
/-! DEFINITION. The state of the block as plain data (spec R20, R38): registers, PC, NextPC, IR, the decoded
instruction, the run state and the byte memory; beside them the construction parameters (R5, R39), the step's outputs
to the host (R121, R122) and the model's own draw counter. Reset and launch states (R38, R350). -/

namespace Sys2Proof.Machine

/-- The two run states (R36). -/
inductive RunState where
  | running
  | halted
deriving DecidableEq, Repr

/-- The error kinds of R122. -/
inductive ErrorKind where
  | addressOutOfRange
  | illegalInstruction
  | unknownSubopcode
deriving DecidableEq, Repr

/-- The trap kinds of R122. -/
inductive TrapKind where
  | ecall
  | ebreak
deriving DecidableEq, Repr

/-- What a step returns to its caller (R122). -/
inductive StepResult where
  | continued
  | error (kind : ErrorKind)
  | trapped (kind : TrapKind)
deriving DecidableEq, Repr

/-- The operation a CSR instruction asks of the external CSR space (R295). -/
inductive CsrOp where
  | write
  | setBits
  | clearBits
deriving DecidableEq, Repr

/-- One emission on the CSR hook: `(kind, csr, rd, src)` (R121, R295). -/
structure CsrRequest where
  op : CsrOp
  csr : BitVec 12
  rd : RegIdx
  src : Word
deriving DecidableEq, Repr

/-- Access widths (R57). -/
inductive Width where
  | byte
  | half
  | word
deriving DecidableEq, Repr

/-- The byte memory: (address, byte) pairs in the canonical form of `Memory.wf` (Ops.lean). A byte not listed reads as
`Memory.unlisted`; any contents of `[0, MSIZE)` can be listed, so a claim over all memories covers every image. -/
abbrev Memory := List Host.Cell

/-- Why the machine stops. -/
inductive Fault where
  /-- Raised by `step` in `Halted`, which has no transition (R135, I9). Safe: the block makes no step there either. -/
  | halted
  /-- Raised by `construct` when memory cannot be allocated (R71). Safe: no step can run. -/
  | allocationFailed
deriving DecidableEq, Repr

/-- Why an operation is turned away. -/
inductive Refusal where
  /-- Raised by `exec` for an instruction without a meaning; no arm raises it. Safe. -/
  | notModelled (mnemonic : String)
  /-- Raised by `construct` for an `MSIZE` outside 1 to 2^32 (R5, D2). Safe: the spec gives no such block. -/
  | illegalConfiguration
  /-- Raised by the host action `load` at an address at or above `MSIZE` (R353). Safe. -/
  | loadOutOfRange
  /-- Raised by the host action `load` once a step has run (R353). Safe. -/
  | loadAfterFirstStep
deriving DecidableEq, Repr

structure State where
  /-- The construction parameters (R5); no step changes them (R39). Log entry 1. -/
  cfg : Config
  /-- `R[0]` to `R[31]` (R21). -/
  regs : Vector Word 32
  /-- The program counter (R25). -/
  pc : Word
  /-- The staged next PC (R26). -/
  nextPc : Word
  /-- The instruction register (R34). -/
  ir : Word
  /-- The decoded instruction (R35, R91). -/
  decoded : Decoded
  /-- The run state (R36). -/
  run : RunState
  /-- The byte memory (R50, R51). -/
  mem : Memory
  /-- OUTPUT: the last step's StepResult (R122); none before the first step. Log entry 6. -/
  result : Option StepResult
  /-- OUTPUT: the last step's emission on the CSR hook (R121); none when it made none. Log entry 6. -/
  hook : Option CsrRequest
  /-- The model's own: how many `CSR_RDATA` draws were taken. Log entry 5. -/
  csrDraws : Nat
deriving DecidableEq, Repr

/-- The launch state of R38 and R350 for a configuration and the launch inputs: any 32 register values and any memory
contents. NextPC, IR, the decoded instruction and the draw counter hold values nothing observes (log entries 4, 5). -/
def State.launch (cfg : Config) (regs : Vector Word 32) (mem : Memory) : State where
  cfg := cfg
  regs := regs
  pc := cfg.resetPc
  nextPc := 0#32
  ir := 0#32
  decoded := decodeFields 0#32
  run := .running
  mem := mem
  result := none
  hook := none
  csrDraws := 0

/-- The machine right after construction with the default parameters. Zero registers are a DESIGN CHOICE (log entry
2), and so is memory that lists nothing (log entry 3); the spec leaves both unspecified (R38). -/
def State.reset : State :=
  State.launch Config.standard (Vector.replicate 32 0#32) []

end Sys2Proof.Machine
end

