-- ==== Sys2Proof/Machine/Flags.lean ====
section
/-! DEFINITION. The block has no status flags (spec R31): a comparison is a bit that a branch or a set instruction uses
at once. This file holds the branch comparator of R120 with its six conditions (R172 to R178) and the 0-or-1 value of a
comparison (R7). -/

namespace Sys2Proof.Machine

/-- The comparator's conditions (R120). -/
inductive BranchCond where
  | eq
  | ne
  | lt
  | ge
  | ltu
  | geu
deriving DecidableEq, Repr

/-- `a <s b` (R7). -/
def lessSigned (a b : Word) : Bool := a.slt b

/-- `a <u b` (R7). -/
def lessUnsigned (a b : Word) : Bool := a.ult b

/-- Whether condition `c` holds of `a` and `b` (R173 to R178). -/
def BranchCond.holds : BranchCond → Word → Word → Bool
  | .eq, a, b => a == b
  | .ne, a, b => a != b
  | .lt, a, b => lessSigned a b
  | .ge, a, b => !lessSigned a b
  | .ltu, a, b => lessUnsigned a b
  | .geu, a, b => !lessUnsigned a b

/-- A comparison as a register value: 1 if true, 0 if false (R7). -/
def flagWord (b : Bool) : Word := if b then 1#32 else 0#32

end Sys2Proof.Machine
end

