-- ==== Sys2Proof/Machine/Ops.lean ====
section
/-! DEFINITION. The shared operations of the block: the byte memory and its bounds (spec R50 to R57), the register file
(R9, R22), fetch and decode (R124), and the ways a step commits (R130 to R134), the trap among them. -/

namespace Sys2Proof.Machine

/-! ## The byte memory -/

/-- What a byte nothing has written reads as. DESIGN CHOICE (log entry 3): the spec leaves it unspecified (R38, D6). -/
def Memory.unlisted : Byte := 0#8

/-- `m` lists addresses strictly rising from `low` on, and no byte equal to `Memory.unlisted`. -/
def Memory.wfFrom : Nat → Memory → Bool
  | _, [] => true
  | low, (a, b) :: m => decide (low ≤ a) && (b != Memory.unlisted) && Memory.wfFrom (a + 1) m

/-- The canonical form: equal contents are equal lists. -/
def Memory.wf (m : Memory) : Bool := Memory.wfFrom 0 m

/-- Every listed byte exists: its address is below `size` (R52). -/
def Memory.within (m : Memory) (size : Nat) : Bool := m.all fun c => decide (c.1 < size)

/-- `Mem[a]`. -/
def Memory.readByte : Memory → Nat → Byte
  | [], _ => Memory.unlisted
  | (c, b) :: m, a => if a = c then b else Memory.readByte m a

/-- `Mem[a] <- b`, keeping the canonical form. -/
def Memory.writeByte : Memory → Nat → Byte → Memory
  | [], a, b => if b = Memory.unlisted then [] else [(a, b)]
  | (c, d) :: m, a, b =>
    if a < c then (if b = Memory.unlisted then (c, d) :: m else (a, b) :: (c, d) :: m)
    else if a = c then (if b = Memory.unlisted then m else (a, b) :: m)
    else (c, d) :: Memory.writeByte m a b

/-- Bytes written at `a`, `a + 1`, and so on. -/
def Memory.writeBytes : Memory → Nat → List Byte → Memory
  | m, _, [] => m
  | m, a, b :: bs => Memory.writeBytes (Memory.writeByte m a b) (a + 1) bs

/-- How many bytes an access moves (R57). -/
def Width.bytes : Width → Nat
  | .byte => 1
  | .half => 2
  | .word => 4

/-- The low bytes of `v` in the order they lie in memory: little-endian (R54, R56). -/
def Width.bytesOf : Width → Word → List Byte
  | .byte, v => [v.extractLsb' 0 8]
  | .half, v => [v.extractLsb' 0 8, v.extractLsb' 8 8]
  | .word, v => [v.extractLsb' 0 8, v.extractLsb' 8 8, v.extractLsb' 16 8, v.extractLsb' 24 8]

/-- The little-endian value of the bytes at `a`, zero-extended to 32 bits (R54, R55). -/
def Memory.readLE (m : Memory) (a : Nat) : Width → Word
  | .byte => (m.readByte a).setWidth 32
  | .half => (m.readByte (a + 1) ++ m.readByte a).setWidth 32
  | .word => wordOfBytes (m.readByte a) (m.readByte (a + 1)) (m.readByte (a + 2)) (m.readByte (a + 3))

/-- The bounds check of R53: the sum is over the natural numbers and never wraps (D7). -/
def State.inRange (s : State) (a : Word) (w : Width) : Bool :=
  decide (a.toNat + w.bytes ≤ s.cfg.msize)

/-- `MemRead(a, n)` (R55): 0 when out of range. -/
def State.memRead (s : State) (a : Word) (w : Width) : Word :=
  if s.inRange a w then s.mem.readLE a.toNat w else 0#32

/-- `MemWrite(a, n, v)` (R56): no byte changes when out of range. -/
def State.memWrite (s : State) (a : Word) (w : Width) (v : Word) : State :=
  { s with mem := if s.inRange a w then s.mem.writeBytes a.toNat (w.bytesOf v) else s.mem }

/-- What a load or store reports (R55, R56, R133). -/
def State.accessResult (s : State) (a : Word) (w : Width) : StepResult :=
  if s.inRange a w then .continued else .error .addressOutOfRange

/-! ## The register file -/

/-- Whether register `r` is the hardwired one (R22). -/
def State.isZeroReg (s : State) (r : RegIdx) : Bool := s.cfg.reg0Hardwired && r == 0#5

/-- `x[r]` (R9). -/
def State.readReg (s : State) (r : RegIdx) : Word :=
  if s.isZeroReg r then 0#32 else s.regs[r.toNat]'r.isLt

/-- `x[r] <- v` (R9): discarded for the hardwired register. -/
def State.writeReg (s : State) (r : RegIdx) (v : Word) : State :=
  { s with regs := if s.isZeroReg r then s.regs else s.regs.set r.toNat v r.isLt }

/-! ## Execute and commit -/

/-- `pc <- target`: overrides the staged NextPC (R12). -/
def State.setNextPc (s : State) (target : Word) : State := { s with nextPc := target }

/-- The PC commit of R130: `PC <- NextPC`, with the step's result; `run` stays as it is. -/
def State.commit (s : State) (r : StepResult) : State := { s with pc := s.nextPc, result := some r }

/-- TAKING A TRAP (R134, R327): nothing is saved, no handler is entered and no mode changes; PC takes the default
NextPC and the caller gets `Trapped(k)`. THE RETURN beside it is no operation on the state: no return instruction
exists, and the caller resumes by calling `step` again, which fetches at the committed PC (R328). -/
def State.takeTrap (s : State) (k : TrapKind) : State := s.commit (.trapped k)

/-- Disposal of a decode error or a fetch out of range (R131, R132): halt with PC at the word, or skip to PC + 4. -/
def State.dispose (s : State) (k : ErrorKind) : State :=
  { s with
    pc := if s.cfg.haltOnIllegal then s.pc else s.pc + 4#32
    run := if s.cfg.haltOnIllegal then .halted else s.run
    result := some (.error k) }

/-- One emission on the CSR hook (R295). -/
def State.emitHook (s : State) (q : CsrRequest) : State := { s with hook := some q }

/-- One `CSR_RDATA` draw is taken (log entry 5). -/
def State.countDraw (s : State) : State := { s with csrDraws := s.csrDraws + 1 }

/-! ## Fetch and decode -/

/-- FETCH (R124, R125): `IR <- MemRead(PC, 4)`; the step's outputs are cleared. -/
def State.fetch (s : State) : State :=
  { s with ir := s.memRead s.pc .word, result := none, hook := none }

/-- The default `NextPC <- PC + 4` (R27) and DECODE (R124). -/
def State.stage (s : State) : State :=
  { s with nextPc := s.pc + 4#32, decoded := decodeFields s.ir }

/-- The error kind a decode error is reported as (R131). -/
def kindOfDecodeError : DecodeError → ErrorKind
  | .illegalInstruction => .illegalInstruction
  | .unknownSubopcode => .unknownSubopcode

/-- The code of a result in a model's enumeration; it has no further meaning (R320, D32). -/
def StepResult.code : StepResult → Nat
  | .continued => 0
  | .error .addressOutOfRange => 1
  | .error .illegalInstruction => 2
  | .error .unknownSubopcode => 3
  | .trapped .ecall => 4
  | .trapped .ebreak => 5

end Sys2Proof.Machine
end

