-- ==== Sys2Proof/Machine/Operands.lean ====
section
/-! DEFINITION. Operands and the functional units: widening (spec R8), effective addresses (R200, R206), shift amounts
(R88, R240), the ALU with its ten operations (R120), and the execute shapes the families share. -/

namespace Sys2Proof.Machine

/-- `sext_n` of the low `n` bits of `v` (R8). -/
def sext (n : Nat) (v : Word) : Word := (v.setWidth n).signExtend 32

/-- `zext_n` of the low `n` bits of `v` (R8). -/
def zext (n : Nat) (v : Word) : Word := (v.setWidth n).setWidth 32

/-- Base plus displacement, modulo 2^32 (R200, R206). -/
def State.effectiveAddress (s : State) (rs1 : RegIdx) (imm : Word) : Word := s.readReg rs1 + imm

/-- The shift amount `b & 0x1F` (R240, R260). -/
def shiftAmount (b : Word) : Nat := (b &&& 0x1F#32).toNat

/-- The ALU's operations (R120). -/
inductive AluOp where
  | add
  | sub
  | sll
  | slt
  | sltu
  | xor
  | srl
  | sra
  | or
  | and
deriving DecidableEq, Repr

/-- The ALU (R120, R240): wrapping arithmetic, one-operation shifts, 0-or-1 comparisons. -/
def alu : AluOp → Word → Word → Word
  | .add, a, b => a + b
  | .sub, a, b => a - b
  | .sll, a, b => a <<< shiftAmount b
  | .slt, a, b => flagWord (lessSigned a b)
  | .sltu, a, b => flagWord (lessUnsigned a b)
  | .xor, a, b => a ^^^ b
  | .srl, a, b => a >>> shiftAmount b
  | .sra, a, b => a.sshiftRight (shiftAmount b)
  | .or, a, b => a ||| b
  | .and, a, b => a &&& b

/-- Write `v` to `x[rd]` and commit normally (R130). -/
def State.writeAndCommit (s : State) (rd : RegIdx) (v : Word) : State :=
  (s.writeReg rd v).commit .continued

/-- Register-immediate execution (R230). -/
def State.aluImm (s : State) (op : AluOp) (rd rs1 : RegIdx) (b : Word) : State :=
  s.writeAndCommit rd (alu op (s.readReg rs1) b)

/-- Register-register execution; both operands are read before the write (R127, R260). -/
def State.aluReg (s : State) (op : AluOp) (rd rs1 rs2 : RegIdx) : State :=
  s.writeAndCommit rd (alu op (s.readReg rs1) (s.readReg rs2))

/-- A branch (R172): NextPC is overridden when the condition holds. -/
def State.branch (s : State) (c : BranchCond) (rs1 rs2 : RegIdx) (imm : Word) : State :=
  (s.setNextPc (if c.holds (s.readReg rs1) (s.readReg rs2) then s.pc + imm else s.nextPc)).commit .continued

/-- The link of JAL and JALR: `x[rd] <- pc + 4`, NextPC overridden by `target` (R170, R171). -/
def State.jumpAndLink (s : State) (rd : RegIdx) (target : Word) : State :=
  ((s.writeReg rd (s.pc + 4#32)).setNextPc target).commit .continued

/-- A load at `ea`, widened by `widen` (R200); out of range it writes the widened 0 and reports it (R133). -/
def State.load (s : State) (rd : RegIdx) (ea : Word) (w : Width) (widen : Word → Word) : State :=
  (s.writeReg rd (widen (s.memRead ea w))).commit (s.accessResult ea w)

/-- A store at `ea` (R206); out of range no byte changes and it reports that (R133). -/
def State.store (s : State) (ea : Word) (w : Width) (v : Word) : State :=
  (s.memWrite ea w v).commit (s.accessResult ea w)

/-- `csrop(kind, src)` (R295): the hook emission, and a draw into `x[rd]`. -/
def State.csrAccess (s : State) (op : CsrOp) (csr : BitVec 12) (rd : RegIdx) (src : Word) : State :=
  ((s.emitHook { op := op, csr := csr, rd := rd, src := src }).countDraw).writeAndCommit rd (Config.csrRdata s.csrDraws)

end Sys2Proof.Machine
end

