-- ==== Sys2Proof/Machine/AluImmediate.lean ====
section
/-! DEFINITION. Register-immediate ALU instructions (spec R230 to R240). -/

namespace Sys2Proof.Machine

/-- R231. -/
def execAddi (rd rs1 : RegIdx) (imm : Word) (s : State) : Host.Outcome State Fault Refusal :=
  .next (s.aluImm .add rd rs1 imm)

/-- R232. -/
def execSlti (rd rs1 : RegIdx) (imm : Word) (s : State) : Host.Outcome State Fault Refusal :=
  .next (s.aluImm .slt rd rs1 imm)

/-- R233. -/
def execSltiu (rd rs1 : RegIdx) (imm : Word) (s : State) : Host.Outcome State Fault Refusal :=
  .next (s.aluImm .sltu rd rs1 imm)

/-- R234. -/
def execXori (rd rs1 : RegIdx) (imm : Word) (s : State) : Host.Outcome State Fault Refusal :=
  .next (s.aluImm .xor rd rs1 imm)

/-- R235. -/
def execOri (rd rs1 : RegIdx) (imm : Word) (s : State) : Host.Outcome State Fault Refusal :=
  .next (s.aluImm .or rd rs1 imm)

/-- R236. -/
def execAndi (rd rs1 : RegIdx) (imm : Word) (s : State) : Host.Outcome State Fault Refusal :=
  .next (s.aluImm .and rd rs1 imm)

/-- R237: the amount is the 5-bit `shamt` field (R88). -/
def execSlli (rd rs1 : RegIdx) (shamt : BitVec 5) (s : State) : Host.Outcome State Fault Refusal :=
  .next (s.aluImm .sll rd rs1 (shamt.setWidth 32))

/-- R238: the amount is the 5-bit `shamt` field (R88). -/
def execSrli (rd rs1 : RegIdx) (shamt : BitVec 5) (s : State) : Host.Outcome State Fault Refusal :=
  .next (s.aluImm .srl rd rs1 (shamt.setWidth 32))

/-- R239: the amount is the 5-bit `shamt` field (R88). -/
def execSrai (rd rs1 : RegIdx) (shamt : BitVec 5) (s : State) : Host.Outcome State Fault Refusal :=
  .next (s.aluImm .sra rd rs1 (shamt.setWidth 32))

end Sys2Proof.Machine
end

