-- ==== Sys2Proof/Machine/AluRegister.lean ====
section
/-! DEFINITION. Register-register ALU instructions (spec R260 to R270). -/

namespace Sys2Proof.Machine

/-- R261. -/
def execAdd (rd rs1 rs2 : RegIdx) (s : State) : Host.Outcome State Fault Refusal :=
  .next (s.aluReg .add rd rs1 rs2)

/-- R262. -/
def execSub (rd rs1 rs2 : RegIdx) (s : State) : Host.Outcome State Fault Refusal :=
  .next (s.aluReg .sub rd rs1 rs2)

/-- R263. -/
def execSll (rd rs1 rs2 : RegIdx) (s : State) : Host.Outcome State Fault Refusal :=
  .next (s.aluReg .sll rd rs1 rs2)

/-- R264. -/
def execSlt (rd rs1 rs2 : RegIdx) (s : State) : Host.Outcome State Fault Refusal :=
  .next (s.aluReg .slt rd rs1 rs2)

/-- R265. -/
def execSltu (rd rs1 rs2 : RegIdx) (s : State) : Host.Outcome State Fault Refusal :=
  .next (s.aluReg .sltu rd rs1 rs2)

/-- R266. -/
def execXor (rd rs1 rs2 : RegIdx) (s : State) : Host.Outcome State Fault Refusal :=
  .next (s.aluReg .xor rd rs1 rs2)

/-- R267. -/
def execSrl (rd rs1 rs2 : RegIdx) (s : State) : Host.Outcome State Fault Refusal :=
  .next (s.aluReg .srl rd rs1 rs2)

/-- R268. -/
def execSra (rd rs1 rs2 : RegIdx) (s : State) : Host.Outcome State Fault Refusal :=
  .next (s.aluReg .sra rd rs1 rs2)

/-- R269. -/
def execOr (rd rs1 rs2 : RegIdx) (s : State) : Host.Outcome State Fault Refusal :=
  .next (s.aluReg .or rd rs1 rs2)

/-- R270. -/
def execAnd (rd rs1 rs2 : RegIdx) (s : State) : Host.Outcome State Fault Refusal :=
  .next (s.aluReg .and rd rs1 rs2)

end Sys2Proof.Machine
end

