-- ==== Sys2Proof/Machine/ControlTransfer.lean ====
section
/-! DEFINITION. JAL, JALR and the six branches (spec R170 to R179). -/

namespace Sys2Proof.Machine

/-- R170: the target is `pc + imm_J`, unmasked (R179, C4). -/
def execJal (rd : RegIdx) (imm : Word) (s : State) : Host.Outcome State Fault Refusal :=
  .next (s.jumpAndLink rd (s.pc + imm))

/-- R171: the target is the old `x[rs1] + imm_I`; bit 0 is kept. -/
def execJalr (rd rs1 : RegIdx) (imm : Word) (s : State) : Host.Outcome State Fault Refusal :=
  .next (s.jumpAndLink rd (s.readReg rs1 + imm))

/-- R173. -/
def execBeq (rs1 rs2 : RegIdx) (imm : Word) (s : State) : Host.Outcome State Fault Refusal :=
  .next (s.branch .eq rs1 rs2 imm)

/-- R174. -/
def execBne (rs1 rs2 : RegIdx) (imm : Word) (s : State) : Host.Outcome State Fault Refusal :=
  .next (s.branch .ne rs1 rs2 imm)

/-- R175. -/
def execBlt (rs1 rs2 : RegIdx) (imm : Word) (s : State) : Host.Outcome State Fault Refusal :=
  .next (s.branch .lt rs1 rs2 imm)

/-- R176. -/
def execBge (rs1 rs2 : RegIdx) (imm : Word) (s : State) : Host.Outcome State Fault Refusal :=
  .next (s.branch .ge rs1 rs2 imm)

/-- R177. -/
def execBltu (rs1 rs2 : RegIdx) (imm : Word) (s : State) : Host.Outcome State Fault Refusal :=
  .next (s.branch .ltu rs1 rs2 imm)

/-- R178. -/
def execBgeu (rs1 rs2 : RegIdx) (imm : Word) (s : State) : Host.Outcome State Fault Refusal :=
  .next (s.branch .geu rs1 rs2 imm)

end Sys2Proof.Machine
end

