-- ==== Sys2Proof/Machine/FenceSystem.lean ====
section
/-! DEFINITION. Fences, environment calls and CSR instructions (spec R290 to R301). -/

namespace Sys2Proof.Machine

/-- R290: nothing but the PC advance; every value of the ignored fields behaves the same. -/
def execFence (_rd _rs1 : RegIdx) (_fields : BitVec 12) (s : State) : Host.Outcome State Fault Refusal :=
  .next (s.commit .continued)

/-- R291: nothing but the PC advance. -/
def execFenceI (_rd _rs1 : RegIdx) (_fields : BitVec 12) (s : State) : Host.Outcome State Fault Refusal :=
  .next (s.commit .continued)

/-- R293: `raise Trap(Ecall)`. -/
def execEcall (s : State) : Host.Outcome State Fault Refusal :=
  .next (s.takeTrap .ecall)

/-- R294: `raise Trap(Ebreak)`. -/
def execEbreak (s : State) : Host.Outcome State Fault Refusal :=
  .next (s.takeTrap .ebreak)

/-- R296: `csrop(W, x[rs1])`. -/
def execCsrrw (rd : RegIdx) (csr : BitVec 12) (rs1 : RegIdx) (s : State) : Host.Outcome State Fault Refusal :=
  .next (s.csrAccess .write csr rd (s.readReg rs1))

/-- R297: `csrop(S, x[rs1])`. -/
def execCsrrs (rd : RegIdx) (csr : BitVec 12) (rs1 : RegIdx) (s : State) : Host.Outcome State Fault Refusal :=
  .next (s.csrAccess .setBits csr rd (s.readReg rs1))

/-- R298: `csrop(C, x[rs1])`. -/
def execCsrrc (rd : RegIdx) (csr : BitVec 12) (rs1 : RegIdx) (s : State) : Host.Outcome State Fault Refusal :=
  .next (s.csrAccess .clearBits csr rd (s.readReg rs1))

/-- R299: `csrop(W, zimm)`; no register is read. -/
def execCsrrwi (rd : RegIdx) (csr : BitVec 12) (zimm : Word) (s : State) : Host.Outcome State Fault Refusal :=
  .next (s.csrAccess .write csr rd zimm)

/-- R300: `csrop(S, zimm)`. -/
def execCsrrsi (rd : RegIdx) (csr : BitVec 12) (zimm : Word) (s : State) : Host.Outcome State Fault Refusal :=
  .next (s.csrAccess .setBits csr rd zimm)

/-- R301: `csrop(C, zimm)`. -/
def execCsrrci (rd : RegIdx) (csr : BitVec 12) (zimm : Word) (s : State) : Host.Outcome State Fault Refusal :=
  .next (s.csrAccess .clearBits csr rd zimm)

end Sys2Proof.Machine
end

