-- ==== Sys2Proof/Machine/LoadStore.lean ====
section
/-! DEFINITION. Loads and stores (spec R200 to R210). -/

namespace Sys2Proof.Machine

/-- R201: the byte, sign-extended. -/
def execLb (rd rs1 : RegIdx) (imm : Word) (s : State) : Host.Outcome State Fault Refusal :=
  .next (s.load rd (s.effectiveAddress rs1 imm) .byte (sext 8))

/-- R202: the halfword, sign-extended. -/
def execLh (rd rs1 : RegIdx) (imm : Word) (s : State) : Host.Outcome State Fault Refusal :=
  .next (s.load rd (s.effectiveAddress rs1 imm) .half (sext 16))

/-- R203: the word, unmodified. -/
def execLw (rd rs1 : RegIdx) (imm : Word) (s : State) : Host.Outcome State Fault Refusal :=
  .next (s.load rd (s.effectiveAddress rs1 imm) .word id)

/-- R204: the byte, zero-extended. -/
def execLbu (rd rs1 : RegIdx) (imm : Word) (s : State) : Host.Outcome State Fault Refusal :=
  .next (s.load rd (s.effectiveAddress rs1 imm) .byte (zext 8))

/-- R205: the halfword, zero-extended. -/
def execLhu (rd rs1 : RegIdx) (imm : Word) (s : State) : Host.Outcome State Fault Refusal :=
  .next (s.load rd (s.effectiveAddress rs1 imm) .half (zext 16))

/-- R207: the low byte of `x[rs2]`. -/
def execSb (rs1 rs2 : RegIdx) (imm : Word) (s : State) : Host.Outcome State Fault Refusal :=
  .next (s.store (s.effectiveAddress rs1 imm) .byte (s.readReg rs2))

/-- R208: the low halfword of `x[rs2]`. -/
def execSh (rs1 rs2 : RegIdx) (imm : Word) (s : State) : Host.Outcome State Fault Refusal :=
  .next (s.store (s.effectiveAddress rs1 imm) .half (s.readReg rs2))

/-- R209: the word `x[rs2]`. -/
def execSw (rs1 rs2 : RegIdx) (imm : Word) (s : State) : Host.Outcome State Fault Refusal :=
  .next (s.store (s.effectiveAddress rs1 imm) .word (s.readReg rs2))

end Sys2Proof.Machine
end

