-- ==== Sys2Proof/Machine/UpperImmediate.lean ====
section
/-! DEFINITION. LUI and AUIPC (spec R150, R151). -/

namespace Sys2Proof.Machine

/-- R150: `x[rd] <- imm_U`. -/
def execLui (rd : RegIdx) (imm : Word) (s : State) : Host.Outcome State Fault Refusal :=
  .next (s.writeAndCommit rd imm)

/-- R151: `x[rd] <- pc + imm_U`, `pc` being this instruction's address (R12). -/
def execAuipc (rd : RegIdx) (imm : Word) (s : State) : Host.Outcome State Fault Refusal :=
  .next (s.writeAndCommit rd (s.pc + imm))

end Sys2Proof.Machine
end

