-- ==== Sys2Proof/Machine/Cycle.lean ====
section
/-! DEFINITION. One fetch-decode-execute-commit cycle of a running block (spec R124), and where a host places the word
the next cycle fetches. -/

namespace Sys2Proof.Machine

/-- The cycle of R124, with the outcomes of R130 to R134 checked in the order of R326. -/
def cycle (s : State) : Host.Outcome State Fault Refusal :=
  if s.inRange s.pc .word then
    match dispatch s.fetch.stage.decoded s.fetch.stage.ir with
    | .ok i => exec i s.fetch.stage
    | .error e => .next (s.fetch.stage.dispose (kindOfDecodeError e))
  else .next (s.fetch.dispose .addressOutOfRange)

/-- `s` with the word `w` in memory at PC, little-endian (R54, R59), and `run` Running; no byte changes when PC is
where no word can be fetched (R53). -/
def placeWord (s : State) (w : Word) : State :=
  { s.memWrite s.pc .word w with run := .running }

end Sys2Proof.Machine
end

