-- ==== Sys2Proof/Machine/Step.lean ====
section
/-! DEFINITION. The step (spec R124, R135): a Halted block makes no transition, a Running one performs one cycle. -/

namespace Sys2Proof.Machine

/-- `step()` (R124); in `Halted` there is no transition (R135, log entry 7). -/
def step (s : State) : Host.Outcome State Fault Refusal :=
  match s.run with
  | .halted => .fault .halted
  | .running => cycle s

/-- `s` with the table word `w` of `nbits` bits (the bits above them zero) where `step` fetches its next instruction:
the four bytes at PC, as the loader would place them (R353, log entry 8). -/
def State.withFetchWord (s : State) (nbits w : Nat) : State :=
  placeWord s (BitVec.ofNat 32 (w % 2 ^ nbits))

end Sys2Proof.Machine
end

