-- ==== Sys2Proof/Machine/Assembler.lean ====
section
/-! DEFINITION. Names for readers (spec R24, R98, R99): the ABI register names, the assembler text of an instruction,
and the expansions of the pseudo-instructions. They are names only; nothing in the machine depends on them. -/

namespace Sys2Proof.Machine

/-- The ABI register names in order (R24). -/
def abiNames : List String :=
  ["zero", "ra", "sp", "gp", "tp", "t0", "t1", "t2", "s0", "s1", "a0", "a1", "a2", "a3", "a4", "a5"] ++
  ["a6", "a7", "s2", "s3", "s4", "s5", "s6", "s7", "s8", "s9", "s10", "s11", "t3", "t4", "t5", "t6"]

/-- The ABI name of a register (R24). -/
def abiName (r : RegIdx) : String := abiNames.getD r.toNat ""

/-- `x0` to `x31` (R98). -/
def regText (r : RegIdx) : String := "x" ++ toString r.toNat

/-- A signed decimal immediate (R98). -/
def immText (imm : Word) : String := toString imm.toInt

def threeText (name a b c : String) : String := name ++ " " ++ a ++ ", " ++ b ++ ", " ++ c

def memText (name a : String) (imm : Word) (base : RegIdx) : String :=
  name ++ " " ++ a ++ ", " ++ immText imm ++ "(" ++ regText base ++ ")"

def rrrText (name : String) (rd rs1 rs2 : RegIdx) : String := threeText name (regText rd) (regText rs1) (regText rs2)

def rriText (name : String) (rd rs1 : RegIdx) (imm : Word) : String :=
  threeText name (regText rd) (regText rs1) (immText imm)

def upperText (name : String) (rd : RegIdx) (imm : Word) : String :=
  name ++ " " ++ regText rd ++ ", " ++ toString (imm.toNat / 4096)

def csrText (name : String) (rd : RegIdx) (csr : BitVec 12) (src : String) : String :=
  threeText name (regText rd) (toString csr.toNat) src

/-- The assembler text of an instruction, in the forms of R98. -/
def asmText : Instr → String
  | .lui rd imm => upperText "lui" rd imm
  | .auipc rd imm => upperText "auipc" rd imm
  | .jal rd imm => "jal " ++ regText rd ++ ", " ++ immText imm
  | .jalr rd rs1 imm => memText "jalr" (regText rd) imm rs1
  | .beq rs1 rs2 imm => rriText "beq" rs1 rs2 imm
  | .bne rs1 rs2 imm => rriText "bne" rs1 rs2 imm
  | .blt rs1 rs2 imm => rriText "blt" rs1 rs2 imm
  | .bge rs1 rs2 imm => rriText "bge" rs1 rs2 imm
  | .bltu rs1 rs2 imm => rriText "bltu" rs1 rs2 imm
  | .bgeu rs1 rs2 imm => rriText "bgeu" rs1 rs2 imm
  | .lb rd rs1 imm => memText "lb" (regText rd) imm rs1
  | .lh rd rs1 imm => memText "lh" (regText rd) imm rs1
  | .lw rd rs1 imm => memText "lw" (regText rd) imm rs1
  | .lbu rd rs1 imm => memText "lbu" (regText rd) imm rs1
  | .lhu rd rs1 imm => memText "lhu" (regText rd) imm rs1
  | .sb rs1 rs2 imm => memText "sb" (regText rs2) imm rs1
  | .sh rs1 rs2 imm => memText "sh" (regText rs2) imm rs1
  | .sw rs1 rs2 imm => memText "sw" (regText rs2) imm rs1
  | .addi rd rs1 imm => rriText "addi" rd rs1 imm
  | .slti rd rs1 imm => rriText "slti" rd rs1 imm
  | .sltiu rd rs1 imm => rriText "sltiu" rd rs1 imm
  | .xori rd rs1 imm => rriText "xori" rd rs1 imm
  | .ori rd rs1 imm => rriText "ori" rd rs1 imm
  | .andi rd rs1 imm => rriText "andi" rd rs1 imm
  | .slli rd rs1 n => threeText "slli" (regText rd) (regText rs1) (toString n.toNat)
  | .srli rd rs1 n => threeText "srli" (regText rd) (regText rs1) (toString n.toNat)
  | .srai rd rs1 n => threeText "srai" (regText rd) (regText rs1) (toString n.toNat)
  | .add rd rs1 rs2 => rrrText "add" rd rs1 rs2
  | .sub rd rs1 rs2 => rrrText "sub" rd rs1 rs2
  | .sll rd rs1 rs2 => rrrText "sll" rd rs1 rs2
  | .slt rd rs1 rs2 => rrrText "slt" rd rs1 rs2
  | .sltu rd rs1 rs2 => rrrText "sltu" rd rs1 rs2
  | .xor rd rs1 rs2 => rrrText "xor" rd rs1 rs2
  | .srl rd rs1 rs2 => rrrText "srl" rd rs1 rs2
  | .sra rd rs1 rs2 => rrrText "sra" rd rs1 rs2
  | .or rd rs1 rs2 => rrrText "or" rd rs1 rs2
  | .and rd rs1 rs2 => rrrText "and" rd rs1 rs2
  | .fence _ _ _ => "fence"
  | .fenceI _ _ _ => "fence.i"
  | .ecall => "ecall"
  | .ebreak => "ebreak"
  | .csrrw rd csr rs1 => csrText "csrrw" rd csr (regText rs1)
  | .csrrs rd csr rs1 => csrText "csrrs" rd csr (regText rs1)
  | .csrrc rd csr rs1 => csrText "csrrc" rd csr (regText rs1)
  | .csrrwi rd csr zimm => csrText "csrrwi" rd csr (toString zimm.toNat)
  | .csrrsi rd csr zimm => csrText "csrrsi" rd csr (toString zimm.toNat)
  | .csrrci rd csr zimm => csrText "csrrci" rd csr (toString zimm.toNat)

/-- The pseudo-instructions of R99. Offsets are byte offsets from the first expanded instruction's own address. -/
inductive Pseudo where
  | nop
  | mv (rd rs : RegIdx)
  | not (rd rs : RegIdx)
  | neg (rd rs : RegIdx)
  | seqz (rd rs : RegIdx)
  | snez (rd rs : RegIdx)
  | sltz (rd rs : RegIdx)
  | sgtz (rd rs : RegIdx)
  | li (rd : RegIdx) (imm : Word)
  | beqz (rs : RegIdx) (off : Word)
  | bnez (rs : RegIdx) (off : Word)
  | blez (rs : RegIdx) (off : Word)
  | bgez (rs : RegIdx) (off : Word)
  | bltz (rs : RegIdx) (off : Word)
  | bgtz (rs : RegIdx) (off : Word)
  | bgt (a b : RegIdx) (off : Word)
  | ble (a b : RegIdx) (off : Word)
  | bgtu (a b : RegIdx) (off : Word)
  | bleu (a b : RegIdx) (off : Word)
  | j (off : Word)
  | jalLink (off : Word)
  | jr (rs : RegIdx)
  | jalrLink (rs : RegIdx)
  | ret
  | call (off : Word)
  | la (rd : RegIdx) (off : Word)
  | csrr (rd : RegIdx) (csr : BitVec 12)
  | csrw (csr : BitVec 12) (rs : RegIdx)
  | csrs (csr : BitVec 12) (rs : RegIdx)
  | csrc (csr : BitVec 12) (rs : RegIdx)
  | csrwi (csr : BitVec 12) (u : Word)
  | csrsi (csr : BitVec 12) (u : Word)
  | csrci (csr : BitVec 12) (u : Word)
deriving DecidableEq, Repr

/-- The `imm_U` whose top 20 bits are `(imm + 0x800) >> 12` (R99). -/
def upperPart (imm : Word) : Word := (imm + 0x800#32) &&& 0xFFFFF000#32

/-- `sext_12(imm[11:0])` (R99). -/
def lowerPart (imm : Word) : Word := (imm.setWidth 12).signExtend 32

/-- The standard expansions of R99. -/
def Pseudo.expand : Pseudo → List Instr
  | .nop => [.addi 0#5 0#5 0#32]
  | .mv rd rs => [.addi rd rs 0#32]
  | .not rd rs => [.xori rd rs (-1#32)]
  | .neg rd rs => [.sub rd 0#5 rs]
  | .seqz rd rs => [.sltiu rd rs 1#32]
  | .snez rd rs => [.sltu rd 0#5 rs]
  | .sltz rd rs => [.slt rd rs 0#5]
  | .sgtz rd rs => [.slt rd 0#5 rs]
  | .li rd imm =>
    if fitsSigned12 imm then [.addi rd 0#5 imm] else [.lui rd (upperPart imm), .addi rd rd (lowerPart imm)]
  | .beqz rs off => [.beq rs 0#5 off]
  | .bnez rs off => [.bne rs 0#5 off]
  | .blez rs off => [.bge 0#5 rs off]
  | .bgez rs off => [.bge rs 0#5 off]
  | .bltz rs off => [.blt rs 0#5 off]
  | .bgtz rs off => [.blt 0#5 rs off]
  | .bgt a b off => [.blt b a off]
  | .ble a b off => [.bge b a off]
  | .bgtu a b off => [.bltu b a off]
  | .bleu a b off => [.bgeu b a off]
  | .j off => [.jal 0#5 off]
  | .jalLink off => [.jal 1#5 off]
  | .jr rs => [.jalr 0#5 rs 0#32]
  | .jalrLink rs => [.jalr 1#5 rs 0#32]
  | .ret => [.jalr 0#5 1#5 0#32]
  | .call off => [.auipc 1#5 (upperPart off), .jalr 1#5 1#5 (lowerPart off)]
  | .la rd off => [.auipc rd (upperPart off), .addi rd rd (lowerPart off)]
  | .csrr rd csr => [.csrrs rd csr 0#5]
  | .csrw csr rs => [.csrrw 0#5 csr rs]
  | .csrs csr rs => [.csrrs 0#5 csr rs]
  | .csrc csr rs => [.csrrc 0#5 csr rs]
  | .csrwi csr u => [.csrrwi 0#5 csr u]
  | .csrsi csr u => [.csrrsi 0#5 csr u]
  | .csrci csr u => [.csrrci 0#5 csr u]

end Sys2Proof.Machine
end

