-- ==== Sys2Proof/Machine/External.lean ====
section
/-! DEFINITION. The host's side of the interface (spec R121): construction (R350, R71), the actions the host takes
between steps (stop R136, load R353, step R124) and the read-only inspection (R137). -/

namespace Sys2Proof.Machine

/-- The memory of `size` bytes with the given contents, first entries last written: cells at or above `size` do not
exist and are dropped (R52). -/
def Memory.ofCells (size : Nat) : List Host.Cell → Memory
  | [] => []
  | (a, b) :: cells =>
    if a < size then (Memory.ofCells size cells).writeByte a b else Memory.ofCells size cells

/-- Construction (R350): the host's configuration and the launch inputs (any register values, any bytes: R38). It is
turned away for an illegal `MSIZE` (R5) and stops when memory cannot be allocated (R71). -/
def construct (allocated : Bool) (cfg : Config) (regs : Vector Word 32) (contents : List Host.Cell) :
    Host.Outcome State Fault Refusal :=
  if cfg.wf then
    if allocated then .next (State.launch cfg regs (Memory.ofCells cfg.msize contents))
    else .fault .allocationFailed
  else .refused .illegalConfiguration

/-- The host's stop request between steps (R136). -/
def stop (s : State) : State := { s with run := .halted }

/-- Whether a step has run since construction: every step leaves a result (R122, R139). -/
def State.hasStepped (s : State) : Bool := s.result.isSome

/-- The loader writes one byte of `Mem` (R353): below `MSIZE` only, before the first step only. -/
def loadByte (s : State) (a : Nat) (b : Byte) : Host.Outcome State Fault Refusal :=
  if s.hasStepped then .refused .loadAfterFirstStep
  else if a < s.cfg.msize then .next { s with mem := s.mem.writeByte a b }
  else .refused .loadOutOfRange

/-- What the host can do to the block after construction (R121). -/
inductive HostAction where
  | step
  | stop
  | load (a : Nat) (b : Byte)
deriving DecidableEq, Repr

/-- The effect of one host action. -/
def act (s : State) : HostAction → Host.Outcome State Fault Refusal
  | .step => step s
  | .stop => .next (stop s)
  | .load a b => loadByte s a b

/-- Inspection of PC (R137). -/
def inspectPc (s : State) : Word := s.pc

/-- Inspection of `x[r]`, as R9 reads it (R137). -/
def inspectReg (s : State) (r : RegIdx) : Word := s.readReg r

/-- Inspection of one byte (R137): refused (`none`) at or above `MSIZE`. -/
def inspectByte (s : State) (a : Nat) : Option Byte :=
  if a < s.cfg.msize then some (s.mem.readByte a) else none

/-- Inspection of the memory range of `n` bytes at `a` (R121, R137): refused when
`a + n` exceeds `MSIZE`, so that every byte given exists. -/
def inspectRange (s : State) (a n : Nat) : Option (List Byte) :=
  if a + n ≤ s.cfg.msize then some ((List.range n).map fun k => s.mem.readByte (a + k)) else none

end Sys2Proof.Machine
end

