-- ==== Sys2Proof/Safety.lean ====
section
/-! DEFINITION. The terms claims use: the invariant of the block's state, what the next step fetches, the states a host
can drive the block to, steps that report no error, and what a step changes and leaves (its frame). -/

namespace Sys2Proof.Machine

/-- The state the spec allows: a legal configuration (R5), a memory in its canonical form whose every listed byte
exists (R51, R52). -/
abbrev State.Inv (s : State) : Prop :=
  s.cfg.wf = true ∧ s.mem.wf = true ∧ s.mem.within s.cfg.msize = true

/-- The word the next step fetches, `Mem[PC .. PC+3]` little-endian (R59). -/
def State.nextWord (s : State) : Word := s.memRead s.pc .word

/-- The next step fetches and dispatches `i`: Running, PC in range, and the word at PC decodes to `i` (R124). -/
abbrev State.AboutToRun (s : State) (i : Instr) : Prop :=
  s.run = .running ∧ s.inRange s.pc .word = true ∧ decode s.nextWord = .ok i

/-- The states the host's actions lead to from `s` (R121). -/
inductive Reaches (s : State) : State → Prop where
  | start : Reaches s s
  | act {t u : State} (a : HostAction) : Reaches s t → act t a = .next u → Reaches s u

/-- The step completes and reports no error (R122): it continues or traps. -/
def State.StepsSafely (s : State) : Prop :=
  ∃ t, step s = .next t ∧ ∀ k, t.result ≠ some (.error k)

/-- `n` steps in a row, none of which reports an error. -/
def State.SafeFor : Nat → State → Prop
  | 0, _ => True
  | n + 1, s => s.StepsSafely ∧ ∀ t, step s = .next t → t.SafeFor n

/-! ## What changes and what stays -/

/-- The registers of `t` are those of `s` after `x[rd] <- v` and no other write: nothing is written when `rd` is the
hardwired register (R9). -/
def WritesReg (s t : State) (rd : RegIdx) (v : Word) : Prop :=
  ∀ r, t.readReg r = if r = rd ∧ ¬(s.cfg.reg0Hardwired = true ∧ rd = 0#5) then v else s.readReg r

/-- Every register reads as before. -/
def KeepsRegs (s t : State) : Prop := ∀ r, t.readReg r = s.readReg r

/-- Every byte of memory reads as before. -/
def KeepsMem (s t : State) : Prop := ∀ a, t.mem.readByte a = s.mem.readByte a

/-- Every byte outside the `n` bytes at `a` reads as before. -/
def KeepsMemOutside (s t : State) (a : Word) (n : Nat) : Prop :=
  ∀ b, ¬(a.toNat ≤ b ∧ b < a.toNat + n) → t.mem.readByte b = s.mem.readByte b

/-- The parameters, the run state, IR and the decoded instruction are as before. -/
def KeepsControl (s t : State) : Prop :=
  t.cfg = s.cfg ∧ t.run = s.run ∧ t.ir = s.ir ∧ t.decoded = s.decoded

/-- No emission on the CSR hook and no draw. -/
def KeepsCsr (s t : State) : Prop := t.hook = s.hook ∧ t.csrDraws = s.csrDraws

/-- NextPC is not overridden and is committed to PC; the step's result is `r`. -/
def FallsThrough (s t : State) (r : StepResult) : Prop :=
  t.pc = s.nextPc ∧ t.nextPc = s.nextPc ∧ t.result = some r

/-- NextPC is overridden by `target`, which is committed to PC; the step continues. -/
def JumpsTo (s t : State) (target : Word) : Prop :=
  t.pc = target ∧ t.nextPc = target ∧ t.result = some .continued ∧ KeepsMem s t ∧ KeepsControl s t ∧ KeepsCsr s t

/-- The whole effect is `x[rd] <- v` and the default PC advance, with result `r`. -/
def WritesOnlyRd (s t : State) (rd : RegIdx) (v : Word) (r : StepResult) : Prop :=
  WritesReg s t rd v ∧ KeepsMem s t ∧ KeepsControl s t ∧ KeepsCsr s t ∧ FallsThrough s t r

/-- The whole effect is the default PC advance, with result `r`. -/
def OnlyAdvances (s t : State) (r : StepResult) : Prop :=
  KeepsRegs s t ∧ KeepsMem s t ∧ KeepsControl s t ∧ KeepsCsr s t ∧ FallsThrough s t r

/-- The byte `k` bytes above address `a`, as a number. -/
def State.byteVal (s : State) (a : Word) (k : Nat) : Nat := (s.mem.readByte (a.toNat + k)).toNat

/-- The address and width of an instruction's data access (R128), if it makes one. -/
def dataAccess (s : State) : Instr → Option (Word × Width)
  | .lb _ rs1 imm | .lbu _ rs1 imm | .sb rs1 _ imm => some (s.readReg rs1 + imm, .byte)
  | .lh _ rs1 imm | .lhu _ rs1 imm | .sh rs1 _ imm => some (s.readReg rs1 + imm, .half)
  | .lw _ rs1 imm | .sw rs1 _ imm => some (s.readReg rs1 + imm, .word)
  | _ => none

/-- The emission an instruction makes on the CSR hook (R295), if it makes one. -/
def hookOf (s : State) : Instr → Option CsrRequest
  | .csrrw rd csr rs1 => some { op := .write, csr := csr, rd := rd, src := s.readReg rs1 }
  | .csrrs rd csr rs1 => some { op := .setBits, csr := csr, rd := rd, src := s.readReg rs1 }
  | .csrrc rd csr rs1 => some { op := .clearBits, csr := csr, rd := rd, src := s.readReg rs1 }
  | .csrrwi rd csr zimm => some { op := .write, csr := csr, rd := rd, src := zimm }
  | .csrrsi rd csr zimm => some { op := .setBits, csr := csr, rd := rd, src := zimm }
  | .csrrci rd csr zimm => some { op := .clearBits, csr := csr, rd := rd, src := zimm }
  | _ => none

/-- Instructions executed one after another on a state. -/
def execAll : List Instr → State → Host.Outcome State Fault Refusal
  | [], s => .next s
  | i :: is, s =>
    match exec i s with
    | .next t => execAll is t
    | .fault r => .fault r
    | .refused r => .refused r

end Sys2Proof.Machine
end

