-- ==== Sys2Proof/Certificates/Slice0/Obligations.lean ====
section
/-! DEFINITION. The statements for the provers, one `def Obligations.<Name> : Prop` each; OBLIGATIONS.json lists them.
A docstring names the rule or the spec's own decision (D<n> of 92_eei_decisions.md, G<n> of
93_implementation_defined.md) or the log entry a statement rests on. -/

namespace Sys2Proof

/-- The rows of spec/opcode_table.json: match, mask, mnemonic. -/
def opcodeTable : List (Word × Word × String) :=
  [(0x00000037#32, 0x0000007F#32, "LUI"),
   (0x00000017#32, 0x0000007F#32, "AUIPC"),
   (0x0000006F#32, 0x0000007F#32, "JAL"),
   (0x00000067#32, 0x0000707F#32, "JALR"),
   (0x00000063#32, 0x0000707F#32, "BEQ"),
   (0x00001063#32, 0x0000707F#32, "BNE"),
   (0x00004063#32, 0x0000707F#32, "BLT"),
   (0x00005063#32, 0x0000707F#32, "BGE")] ++
  [(0x00006063#32, 0x0000707F#32, "BLTU"),
   (0x00007063#32, 0x0000707F#32, "BGEU"),
   (0x00000003#32, 0x0000707F#32, "LB"),
   (0x00001003#32, 0x0000707F#32, "LH"),
   (0x00002003#32, 0x0000707F#32, "LW"),
   (0x00004003#32, 0x0000707F#32, "LBU"),
   (0x00005003#32, 0x0000707F#32, "LHU"),
   (0x00000023#32, 0x0000707F#32, "SB")] ++
  [(0x00001023#32, 0x0000707F#32, "SH"),
   (0x00002023#32, 0x0000707F#32, "SW"),
   (0x00000013#32, 0x0000707F#32, "ADDI"),
   (0x00002013#32, 0x0000707F#32, "SLTI"),
   (0x00003013#32, 0x0000707F#32, "SLTIU"),
   (0x00004013#32, 0x0000707F#32, "XORI"),
   (0x00006013#32, 0x0000707F#32, "ORI"),
   (0x00007013#32, 0x0000707F#32, "ANDI")] ++
  [(0x00001013#32, 0xFE00707F#32, "SLLI"),
   (0x00005013#32, 0xFE00707F#32, "SRLI"),
   (0x40005013#32, 0xFE00707F#32, "SRAI"),
   (0x00000033#32, 0xFE00707F#32, "ADD"),
   (0x40000033#32, 0xFE00707F#32, "SUB"),
   (0x00001033#32, 0xFE00707F#32, "SLL"),
   (0x00002033#32, 0xFE00707F#32, "SLT"),
   (0x00003033#32, 0xFE00707F#32, "SLTU")] ++
  [(0x00004033#32, 0xFE00707F#32, "XOR"),
   (0x00005033#32, 0xFE00707F#32, "SRL"),
   (0x40005033#32, 0xFE00707F#32, "SRA"),
   (0x00006033#32, 0xFE00707F#32, "OR"),
   (0x00007033#32, 0xFE00707F#32, "AND"),
   (0x0000000F#32, 0x0000707F#32, "FENCE"),
   (0x0000100F#32, 0x0000707F#32, "FENCE.I"),
   (0x00000073#32, 0xFFFFFFFF#32, "ECALL")] ++
  [(0x00100073#32, 0xFFFFFFFF#32, "EBREAK"),
   (0x00001073#32, 0x0000707F#32, "CSRRW"),
   (0x00002073#32, 0x0000707F#32, "CSRRS"),
   (0x00003073#32, 0x0000707F#32, "CSRRC"),
   (0x00005073#32, 0x0000707F#32, "CSRRWI"),
   (0x00006073#32, 0x0000707F#32, "CSRRSI"),
   (0x00007073#32, 0x0000707F#32, "CSRRCI")]

/-- The eleven opcodes of R92. -/
def groupOpcodes : List (BitVec 7) :=
  [0x37#7, 0x17#7, 0x6F#7, 0x67#7, 0x63#7, 0x03#7, 0x23#7, 0x13#7, 0x33#7, 0x0F#7, 0x73#7]

/-- The word's reserved encodings inside the recognized groups, as R94 lists them. -/
def reservedWord (w : Word) : Prop :=
  (opcodeOf w = 0x67#7 ∧ funct3Of w ≠ 0#3) ∨
  (opcodeOf w = 0x63#7 ∧ funct3Of w ∈ [2#3, 3#3]) ∨
  (opcodeOf w = 0x03#7 ∧ funct3Of w ∈ [3#3, 6#3, 7#3]) ∨
  (opcodeOf w = 0x23#7 ∧ funct3Of w ∈ [3#3, 4#3, 5#3, 6#3, 7#3]) ∨
  (opcodeOf w = 0x13#7 ∧ funct3Of w = 1#3 ∧ funct7Of w ≠ 0#7) ∨
  (opcodeOf w = 0x13#7 ∧ funct3Of w = 5#3 ∧ funct7Of w ≠ 0#7 ∧ funct7Of w ≠ 0b0100000#7) ∨
  (opcodeOf w = 0x33#7 ∧ funct7Of w ≠ 0#7 ∧ funct7Of w ≠ 0b0100000#7) ∨
  (opcodeOf w = 0x33#7 ∧ funct7Of w = 0b0100000#7 ∧ funct3Of w ≠ 0#3 ∧ funct3Of w ≠ 5#3) ∨
  (opcodeOf w = 0x0F#7 ∧ funct3Of w ∉ [0#3, 1#3]) ∨
  (opcodeOf w = 0x73#7 ∧ funct3Of w = 4#3) ∨
  (opcodeOf w = 0x73#7 ∧ funct3Of w = 0#3 ∧ w ≠ 0x00000073#32 ∧ w ≠ 0x00100073#32)

/-- The nineteen ALU instructions of R231 to R239 and R261 to R270 with `rd = x0`. -/
def aluToZero (rs1 rs2 : RegIdx) (imm : Word) (shamt : BitVec 5) : List Instr :=
  [.addi 0#5 rs1 imm, .slti 0#5 rs1 imm, .sltiu 0#5 rs1 imm, .xori 0#5 rs1 imm, .ori 0#5 rs1 imm, .andi 0#5 rs1 imm,
    .slli 0#5 rs1 shamt, .srli 0#5 rs1 shamt, .srai 0#5 rs1 shamt] ++
  [.add 0#5 rs1 rs2, .sub 0#5 rs1 rs2, .sll 0#5 rs1 rs2, .slt 0#5 rs1 rs2, .sltu 0#5 rs1 rs2, .xor 0#5 rs1 rs2,
    .srl 0#5 rs1 rs2, .sra 0#5 rs1 rs2, .or 0#5 rs1 rs2, .and 0#5 rs1 rs2]

/-- The number `n` of `width` bits read as two's complement. -/
def signedValue (width n : Nat) : Int :=
  if n < 2 ^ (width - 1) then (n : Int) else (n : Int) - 2 ^ width

end Sys2Proof

namespace Sys2Proof.Machine

/-- PC after a step that completes an instruction, as the table of R28 gives it. -/
def pcAfter (s : State) : Instr → Word
  | .jal _ imm => s.pc + imm
  | .jalr _ rs1 imm => s.readReg rs1 + imm
  | .beq rs1 rs2 imm => if s.readReg rs1 = s.readReg rs2 then s.pc + imm else s.pc + 4#32
  | .bne rs1 rs2 imm => if s.readReg rs1 ≠ s.readReg rs2 then s.pc + imm else s.pc + 4#32
  | .blt rs1 rs2 imm => if (s.readReg rs1).toInt < (s.readReg rs2).toInt then s.pc + imm else s.pc + 4#32
  | .bge rs1 rs2 imm => if (s.readReg rs1).toInt ≥ (s.readReg rs2).toInt then s.pc + imm else s.pc + 4#32
  | .bltu rs1 rs2 imm => if (s.readReg rs1).toNat < (s.readReg rs2).toNat then s.pc + imm else s.pc + 4#32
  | .bgeu rs1 rs2 imm => if (s.readReg rs1).toNat ≥ (s.readReg rs2).toNat then s.pc + imm else s.pc + 4#32
  | _ => s.pc + 4#32

/-- The one StepResult of the next step, its conditions checked in the order of R326. -/
def resultByPriority (s : State) : StepResult :=
  if s.pc.toNat + 4 > s.cfg.msize then .error .addressOutOfRange
  else match decode s.nextWord with
    | .error .illegalInstruction => .error .illegalInstruction
    | .error .unknownSubopcode => .error .unknownSubopcode
    | .ok .ecall => .trapped .ecall
    | .ok .ebreak => .trapped .ebreak
    | .ok i =>
      match dataAccess s i with
      | some (a, w) => if a.toNat + w.bytes > s.cfg.msize then .error .addressOutOfRange else .continued
      | none => .continued

end Sys2Proof.Machine

open Sys2Proof Sys2Proof.Machine

/-- R81, R83, and R88 for the shift amount: every field as a number computed from the word by division. -/
def Obligations.DecoderExtractsFieldsAndImmI : Prop :=
  ∀ w : Word,
    (decodeFields w).opcode.toNat = w.toNat % 128 ∧
    (decodeFields w).rd.toNat = w.toNat / 2 ^ 7 % 32 ∧
    (decodeFields w).funct3.toNat = w.toNat / 2 ^ 12 % 8 ∧
    (decodeFields w).rs1.toNat = w.toNat / 2 ^ 15 % 32 ∧
    (decodeFields w).rs2.toNat = w.toNat / 2 ^ 20 % 32 ∧
    (decodeFields w).funct7.toNat = w.toNat / 2 ^ 25 ∧
    (decodeFields w).shamt.toNat = w.toNat / 2 ^ 20 % 32 ∧
    (decodeFields w).immI.toInt = signedValue 12 (w.toNat / 2 ^ 20) ∧
    -2048 ≤ (decodeFields w).immI.toInt ∧ (decodeFields w).immI.toInt ≤ 2047 ∧
    (decodeFields w).immIz.toNat = w.toNat / 2 ^ 20

/-- R84 to R87, R89 as numbers; the zero-extended forms are the spec's D25, the 12-bit csr field its C3. -/
def Obligations.DecoderAssemblesOtherImmediates : Prop :=
  ∀ w : Word,
    let rawS := w.toNat / 2 ^ 25 * 32 + w.toNat / 2 ^ 7 % 32
    let rawB := w.toNat / 2 ^ 31 * 4096 + w.toNat / 2 ^ 7 % 2 * 2048 + w.toNat / 2 ^ 25 % 64 * 32 +
      w.toNat / 2 ^ 8 % 16 * 2
    let rawJ := w.toNat / 2 ^ 31 * 2 ^ 20 + w.toNat / 2 ^ 12 % 256 * 4096 + w.toNat / 2 ^ 20 % 2 * 2048 +
      w.toNat / 2 ^ 21 % 1024 * 2
    (decodeFields w).immS.toInt = signedValue 12 rawS ∧ (decodeFields w).immSz.toNat = rawS ∧
    (decodeFields w).immB.toInt = signedValue 13 rawB ∧ (decodeFields w).immBz.toNat = rawB ∧
    (decodeFields w).immU.toNat = w.toNat / 2 ^ 12 * 4096 ∧
    (decodeFields w).immJ.toInt = signedValue 21 rawJ ∧ (decodeFields w).immJz.toNat = rawJ ∧
    (decodeFields w).csr.toNat = w.toNat / 2 ^ 20 ∧
    (decodeFields w).zimm.toNat = w.toNat / 2 ^ 15 % 32

/-- R93 by the masks of spec/opcode_table.json; the funct3 and funct7 values are the spec's G2. -/
def Obligations.DecodeFollowsTheOpcodeTable : Prop :=
  (∀ w : Word, ∀ row ∈ opcodeTable,
    (w &&& row.2.1 = row.1 ↔ ∃ i, decode w = .ok i ∧ i.mnemonic = row.2.2)) ∧
  ∀ i : Instr, ∃ row ∈ opcodeTable, row.2.2 = i.mnemonic

/-- R92; whatever the other fields hold (R97). -/
def Obligations.IllegalInstructionExactlyOffTheDispatchTable : Prop :=
  (∀ w : Word, decode w = .error .illegalInstruction ↔ opcodeOf w ∉ groupOpcodes) ∧
  ((List.range 128).filter fun k => decide (BitVec.ofNat 7 k ∉ groupOpcodes)).length = 117

/-- R94's list; the choice of reserved words is the spec's D12 to D15. -/
def Obligations.UnknownSubopcodeExactlyTheReservedWords : Prop :=
  ∀ w : Word, decode w = .error .unknownSubopcode ↔ reservedWord w

/-- R82 to R93: no bit of an operand is lost by the encoder or the decoder. -/
def Obligations.DecodeOfEncodeIsTheInstruction : Prop :=
  ∀ i : Instr, i.wf = true → decode (encode i) = .ok i

/-- R82 to R93, the other direction; FENCE and FENCE.I carry their ignored fields (log entry 12). -/
def Obligations.EncodeOfDecodeIsTheWord : Prop :=
  ∀ (w : Word) (i : Instr), decode w = .ok i → i.wf = true ∧ encode i = w

/-- Words of 95_test_vectors.md, one for each family. -/
def Obligations.SpecWordsDecode : Prop :=
  decode 0x123452B7#32 = .ok (.lui 5#5 0x12345000#32) ∧
  decode 0xFFDFF06F#32 = .ok (.jal 0#5 (-4#32)) ∧
  decode 0xFE209CE3#32 = .ok (.bne 1#5 2#5 (-8#32)) ∧
  decode 0xFFE09103#32 = .ok (.lh 2#5 1#5 (-2#32)) ∧
  decode 0xFE20AFA3#32 = .ok (.sw 1#5 2#5 (-1#32)) ∧
  decode 0x4040D193#32 = .ok (.srai 3#5 1#5 4#5) ∧
  decode 0x402081B3#32 = .ok (.sub 3#5 1#5 2#5) ∧
  decode 0x0FF0000F#32 = .ok (.fence 0#5 0#5 0x0FF#12) ∧
  decode 0x3003D2F3#32 = .ok (.csrrwi 5#5 0x300#12 7#32)

/-- R302 and R271; the encodings are the spec's G11 and G12. -/
def Obligations.PrivilegedAndMultiplyWordsRejected : Prop :=
  (∀ w ∈ [0x00200073#32, 0x10200073#32, 0x30200073#32, 0x10500073#32], decode w = .error .unknownSubopcode) ∧
  (∀ w : Word, opcodeOf w = 0x73#7 → funct3Of w = 0#3 → funct7Of w = 0b0001001#7 →
    decode w = .error .unknownSubopcode) ∧
  ∀ w : Word, opcodeOf w = 0x33#7 → funct7Of w = 0b0000001#7 → decode w = .error .unknownSubopcode

/-- R21; the hardwired register as R9 and R22 have it. -/
def Obligations.RegistersAreIndependent : Prop :=
  ∀ (s : State) (r : RegIdx) (v : Word),
    (¬(s.cfg.reg0Hardwired = true ∧ r = 0#5) → (s.writeReg r v).readReg r = v) ∧
    (∀ q, q ≠ r → (s.writeReg r v).readReg q = s.readReg q) ∧
    (s.cfg.reg0Hardwired = true → s.readReg 0#5 = 0#32 ∧ (s.writeReg r v).readReg 0#5 = 0#32)

/-- R63; the premise is the model's canonical form of memory, kept by every step (StepKeepsTheInvariant). -/
def Obligations.MemoryRoundTrip : Prop :=
  ∀ (s : State) (a : Word) (w : Width) (v : Word), s.mem.wf = true →
    (a.toNat + w.bytes ≤ s.cfg.msize →
      ((s.memWrite a w v).memRead a w).toNat = v.toNat % 2 ^ (8 * w.bytes) ∧
      s.accessResult a w = .continued ∧ (s.memWrite a w v).accessResult a w = .continued) ∧
    (a.toNat + w.bytes > s.cfg.msize →
      s.memRead a w = 0#32 ∧ s.memWrite a w v = s ∧ s.accessResult a w = .error .addressOutOfRange)

/-- R54, for data and for instruction fetch alike; the premise is the model's canonical form of memory. -/
def Obligations.MemoryIsLittleEndian : Prop :=
  ∀ s : State, s.mem.wf = true → ∀ a : Word,
    (s.inRange a .byte = true → (s.memRead a .byte).toNat = s.byteVal a 0) ∧
    (s.inRange a .half = true → (s.memRead a .half).toNat = s.byteVal a 0 + 256 * s.byteVal a 1) ∧
    (s.inRange a .word = true → (s.memRead a .word).toNat =
      s.byteVal a 0 + 256 * s.byteVal a 1 + 65536 * s.byteVal a 2 + 16777216 * s.byteVal a 3) ∧
    (∀ (w : Width) (v : Word) (k : Nat), s.inRange a w = true → k < w.bytes →
      (s.memWrite a w v).byteVal a k = v.toNat / 256 ^ k % 256) ∧
    (s.inRange s.pc .word = true → s.nextWord.toNat =
      s.byteVal s.pc 0 + 256 * s.byteVal s.pc 1 + 65536 * s.byteVal s.pc 2 + 16777216 * s.byteVal s.pc 3)

/-- R56, R57, R53 (the sum never wraps: the spec's D7). -/
def Obligations.WriteChangesOnlyItsBytes : Prop :=
  ∀ (s : State) (a : Word) (w : Width) (v : Word), s.mem.wf = true →
    KeepsMemOutside s (s.memWrite a w v) a w.bytes ∧
    KeepsRegs s (s.memWrite a w v) ∧ KeepsControl s (s.memWrite a w v) ∧ KeepsCsr s (s.memWrite a w v) ∧
    (s.memWrite a w v).pc = s.pc ∧ (s.memWrite a w v).nextPc = s.nextPc ∧
    (s.memWrite a w v).result = s.result ∧
    (a.toNat + w.bytes > s.cfg.msize → KeepsMem s (s.memWrite a w v))

/-- R70, which the spec itself derives from R54 to R56. -/
def Obligations.NarrowReadsSeeTheWordWritten : Prop :=
  ∀ (s : State) (a v : Word), s.mem.wf = true → s.cfg.wf = true → a.toNat + 4 ≤ s.cfg.msize →
    (∀ k : Nat, k < 4 → ((s.memWrite a .word v).memRead (a + BitVec.ofNat 32 k) .byte).toNat =
      v.toNat / 2 ^ (8 * k) % 2 ^ 8) ∧
    ∀ k : Nat, k < 3 → ((s.memWrite a .word v).memRead (a + BitVec.ofNat 32 k) .half).toNat =
      v.toNat / 2 ^ (8 * k) % 2 ^ 16

/-- R124: what the step adds around execute, named. The split into s.fetch.stage and exec is the model's choice (log
entry 14), and so are the fields result and hook, which fetch clears (log entry 6). -/
def Obligations.StepRunsTheDecodedInstruction : Prop :=
  ∀ (s : State) (i : Instr), s.AboutToRun i →
    step s = exec i s.fetch.stage ∧
    s.fetch.stage.ir = s.nextWord ∧ s.fetch.stage.decoded = decodeFields s.nextWord ∧
    s.fetch.stage.nextPc = s.pc + 4#32 ∧ s.fetch.stage.pc = s.pc ∧
    s.fetch.stage.result = none ∧ s.fetch.stage.hook = none ∧
    s.fetch.stage.cfg = s.cfg ∧ s.fetch.stage.regs = s.regs ∧ s.fetch.stage.mem = s.mem ∧
    s.fetch.stage.run = s.run ∧ s.fetch.stage.csrDraws = s.csrDraws

/-- R27, R28, and R133 for out-of-range accesses. The spec's own decisions, followed by log entry 10: the wrap is D8, the
old x[rs1] D9, the unmasked targets D10, PC after ECALL and EBREAK D16, an uncommitted NextPC D18, PC after an
out-of-range access D20. -/
def Obligations.PcAfterEveryInstruction : Prop :=
  (∀ (s : State) (i : Instr), s.AboutToRun i →
    ∃ t, step s = .next t ∧ t.pc = pcAfter s i ∧ t.pc = t.nextPc) ∧
  ∀ s t : State, step s = .next t → s.inRange s.pc .word = true → (∃ e, decode s.nextWord = .error e) →
    t.nextPc = s.pc + 4#32

/-- R131; PC and run are the spec's D18. -/
def Obligations.DecodeErrorHaltsOrSkips : Prop :=
  ∀ (s : State) (e : DecodeError), s.run = .running → s.inRange s.pc .word = true →
    decode s.nextWord = .error e →
    ∃ t, step s = .next t ∧ t.result = some (.error (kindOfDecodeError e)) ∧
      KeepsRegs s t ∧ KeepsMem s t ∧ t.cfg = s.cfg ∧ t.hook = none ∧ t.csrDraws = s.csrDraws ∧
      (s.cfg.haltOnIllegal = true → t.run = .halted ∧ t.pc = s.pc) ∧
      (s.cfg.haltOnIllegal = false → t.run = .running ∧ t.pc = s.pc + 4#32)

/-- R132; the whole disposal is the spec's D19. -/
def Obligations.FetchOutOfRangeHaltsOrSkips : Prop :=
  ∀ s : State, s.run = .running → s.pc.toNat + 4 > s.cfg.msize →
    ∃ t, step s = .next t ∧ t.result = some (.error .addressOutOfRange) ∧
      KeepsRegs s t ∧ KeepsMem s t ∧ t.cfg = s.cfg ∧ t.hook = none ∧ t.csrDraws = s.csrDraws ∧
      (s.cfg.haltOnIllegal = true → t.run = .halted ∧ t.pc = s.pc) ∧
      (s.cfg.haltOnIllegal = false → t.run = .running ∧ t.pc = s.pc + 4#32)

/-- R135; a final state is the spec's D21, the fault is its form in this model (log entry 7). -/
def Obligations.HaltedHasNoStep : Prop :=
  ∀ s : State, s.run = .halted → step s = .fault .halted

/-- R139: no outcome but the run state stops the block. -/
def Obligations.RunningStepsReturnAResult : Prop :=
  ∀ s : State,
    (s.run = .running → ∃ t r, step s = .next t ∧ t.result = some r) ∧
    (∀ f, step s = .fault f → s.run = .halted) ∧ ∀ r, step s ≠ .refused r

/-- R123, R135, R136; which errors halt is the spec's D3 and D19. -/
def Obligations.RunStateTransitions : Prop :=
  ∀ s : State,
    (∀ t, s.run = .running → step s = .next t →
      (t.run = .halted ↔ s.cfg.haltOnIllegal = true ∧
        (s.pc.toNat + 4 > s.cfg.msize ∨ ∃ e, decode s.nextWord = .error e))) ∧
    (stop s).run = .halted ∧
    ∀ (a : HostAction) (t : State), s.run = .halted → act s a = .next t → t.run = .halted

/-- R326 and R320's table; the order is the spec's D26. -/
def Obligations.StepResultByPriority : Prop :=
  ∀ s t : State, step s = .next t → t.result = some (resultByPriority s)

/-- R321. That a fetch out of range reports AddressOutOfRange first is the spec's D19 and D26 (log entry 10). -/
def Obligations.IllegalInstructionOnlyFromTheOpcode : Prop :=
  ∀ s t : State, step s = .next t →
    (t.result = some (.error .illegalInstruction) ↔
      s.inRange s.pc .word = true ∧ opcodeOf s.nextWord ∉ groupOpcodes) ∧
    (t.result = some (.error .illegalInstruction) → KeepsRegs s t ∧ KeepsMem s t)

/-- R324. -/
def Obligations.TrapsOnlyFromEcallAndEbreak : Prop :=
  ∀ s t : State, step s = .next t →
    (t.result = some (.trapped .ecall) ↔ s.AboutToRun .ecall) ∧
    (t.result = some (.trapped .ebreak) ↔ s.AboutToRun .ebreak)

/-- R5 and R39; that the parameters stand in a field of State is the model's (log entry 1). -/
def Obligations.ParametersNeverChange : Prop :=
  ∀ (s t : State) (a : HostAction), act s a = .next t → t.cfg = s.cfg

/-- R34, and R35 for the record. -/
def Obligations.InstructionRegisterIsTheFetchedWord : Prop :=
  ∀ s t : State, step s = .next t → s.inRange s.pc .word = true →
    t.ir.toNat = s.byteVal s.pc 0 + 256 * s.byteVal s.pc 1 + 65536 * s.byteVal s.pc 2 +
      16777216 * s.byteVal s.pc 3 ∧
    t.decoded = decodeFields t.ir

/-- R61, R128, R206: fetches, loads and every other instruction leave every byte. -/
def Obligations.OnlyStoresChangeMemory : Prop :=
  ∀ (s t : State) (b : Nat), s.mem.wf = true → step s = .next t → t.mem.readByte b ≠ s.mem.readByte b →
    ∃ (i : Instr) (rs1 rs2 : RegIdx) (imm : Word) (n : Nat), s.AboutToRun i ∧
      ((i = .sb rs1 rs2 imm ∧ n = 1) ∨ (i = .sh rs1 rs2 imm ∧ n = 2) ∨ (i = .sw rs1 rs2 imm ∧ n = 4)) ∧
      (s.readReg rs1 + imm).toNat ≤ b ∧ b < (s.readReg rs1 + imm).toNat + n

/-- R128 and R23, which the spec derives from the instruction rules. -/
def Obligations.OneWritePerStep : Prop :=
  ∀ s t : State, step s = .next t →
    (∃ rd, ∀ r, r ≠ rd → t.readReg r = s.readReg r) ∧
    ((∃ a, t.mem.readByte a ≠ s.mem.readByte a) → KeepsRegs s t)

/-- The base case of StepKeepsTheInvariant; memory that lists nothing is the model's choice (log entry 3). -/
def Obligations.ResetMeetsTheInvariant : Prop :=
  State.reset.Inv

/-- R5, R51, R52: over all states, not only those runs reach. -/
def Obligations.StepKeepsTheInvariant : Prop :=
  ∀ s t : State, s.Inv → step s = .next t → t.Inv

/-- R121, R350, R353: the launch contents are the spec's open inputs (D5, D6). -/
def Obligations.EveryReachedStateMeetsTheInvariant : Prop :=
  ∀ (allocated : Bool) (cfg : Config) (regs : Vector Word 32) (contents : List Host.Cell) (s t : State),
    construct allocated cfg regs contents = .next s → Reaches s t → t.Inv

/-- R68 and R358, which the spec derives: no FENCE.I is needed. -/
def Obligations.NextFetchSeesTheStore : Prop :=
  ∀ (s : State) (rs1 rs2 : RegIdx) (imm : Word), s.Inv → s.AboutToRun (.sw rs1 rs2 imm) →
    (s.readReg rs1 + imm).toNat + 4 ≤ s.cfg.msize →
    ∃ t, step s = .next t ∧ t.memRead (s.readReg rs1 + imm) .word = s.readReg rs2 ∧
      (s.readReg rs1 + imm = s.pc + 4#32 →
        t.nextWord = s.readReg rs2 ∧ ∀ u, step t = .next u → u.ir = s.readReg rs2)

/-- R207 to R209 with R203 to R205: width-correct stores (C2). -/
def Obligations.StoreThenLoadReturnsTheValue : Prop :=
  ∀ (s : State) (rd rs1 rs2 : RegIdx) (imm : Word), s.Inv →
    ((s.readReg rs1 + imm).toNat + 4 ≤ s.cfg.msize →
      ∃ t u, exec (.sw rs1 rs2 imm) s = .next t ∧ exec (.lw rd rs1 imm) t = .next u ∧
        WritesReg s u rd (s.readReg rs2)) ∧
    ((s.readReg rs1 + imm).toNat + 2 ≤ s.cfg.msize →
      ∃ t u, exec (.sh rs1 rs2 imm) s = .next t ∧ exec (.lhu rd rs1 imm) t = .next u ∧
        WritesReg s u rd (BitVec.ofNat 32 ((s.readReg rs2).toNat % 65536))) ∧
    ((s.readReg rs1 + imm).toNat + 1 ≤ s.cfg.msize →
      ∃ t u, exec (.sb rs1 rs2 imm) s = .next t ∧ exec (.lbu rd rs1 imm) t = .next u ∧
        WritesReg s u rd (BitVec.ofNat 32 ((s.readReg rs2).toNat % 256)))

/-- R38, R350 to R352, R71; RESET_PC is an open parameter (D4), registers and bytes are open inputs (D5, D6); which
of two entries for one address wins is the model's choice (log entry 9), and so is the field result (log entry 6). The
range of MSIZE is the spec's D2, its check by construct the model's choice (log entry 17). -/
def Obligations.ConstructionSetsTheLaunchState : Prop :=
  ∀ (cfg : Config) (regs : Vector Word 32) (contents : List Host.Cell),
    (1 ≤ cfg.msize → cfg.msize ≤ 2 ^ 32 →
      (∃ s, construct true cfg regs contents = .next s ∧ s.run = .running ∧ s.pc = cfg.resetPc ∧ s.cfg = cfg ∧
        s.regs = regs ∧ s.result = none ∧
        ∀ a, a < cfg.msize → ∀ b, contents.lookup a = some b → s.mem.readByte a = b) ∧
      construct false cfg regs contents = .fault .allocationFailed) ∧
    (cfg.msize = 0 ∨ cfg.msize > 2 ^ 32 →
      ∀ allocated, construct allocated cfg regs contents = .refused .illegalConfiguration)

/-- R136; the stop as an action between steps is the spec's D22. -/
def Obligations.StopOnlyHalts : Prop :=
  ∀ s : State, act s .stop = .next (stop s) ∧ (stop s).run = .halted ∧ (stop s).pc = s.pc ∧
    (stop s).nextPc = s.nextPc ∧ (stop s).ir = s.ir ∧ (stop s).decoded = s.decoded ∧ (stop s).cfg = s.cfg ∧
    (stop s).result = s.result ∧ KeepsCsr s (stop s) ∧ KeepsRegs s (stop s) ∧ KeepsMem s (stop s) ∧ (s.run = .halted → stop s = s)

/-- R137; the refusal at or above MSIZE is the spec's D28, that of an empty range ending above it the model's (log entry 9). -/
def Obligations.InspectionShowsTheState : Prop :=
  ∀ (s : State), inspectPc s = s.pc ∧ (∀ r, inspectReg s r = s.readReg r) ∧
    (∀ a, a < s.cfg.msize → inspectByte s a = some (s.mem.readByte a)) ∧
    (∀ a, a ≥ s.cfg.msize → inspectByte s a = none) ∧
    (∀ a n, a + n ≤ s.cfg.msize → ∃ bytes, inspectRange s a n = some bytes ∧ bytes.length = n ∧
      ∀ k, k < n → bytes[k]? = some (s.mem.readByte (a + k))) ∧
    ∀ a n, a + n > s.cfg.msize → inspectRange s a n = none

/-- R353; that the loader sets memory only is the spec's D6, the form of the late refusal the model's (log entry 16). -/
def Obligations.LoaderWritesMemoryOnly : Prop :=
  ∀ (s : State) (a : Nat) (b : Byte), s.mem.wf = true →
    (s.hasStepped = false → a < s.cfg.msize → ∃ t, act s (.load a b) = .next t ∧ t.mem.readByte a = b ∧
      (∀ c, c ≠ a → t.mem.readByte c = s.mem.readByte c) ∧ t.regs = s.regs ∧ t.pc = s.pc ∧
      t.nextPc = s.nextPc ∧ t.result = s.result ∧ KeepsControl s t ∧ KeepsCsr s t) ∧
    (s.hasStepped = false → a ≥ s.cfg.msize → act s (.load a b) = .refused .loadOutOfRange) ∧
    (∀ t u, step s = .next t → Reaches t u → act u (.load a b) = .refused .loadAfterFirstStep)

/-- R121 and R295; the hook's shape is the spec's D17. -/
def Obligations.HookEmittedExactlyByCsrInstructions : Prop :=
  ∀ (s t : State) (q : CsrRequest), step s = .next t →
    (t.hook = some q ↔ ∃ i, s.AboutToRun i ∧ hookOf s i = some q)

/-- R150, its encoding and its effect on every operand. -/
def Obligations.LuiWritesTheUpperImmediate : Prop :=
  (∀ w : Word, opcodeOf w = 0x37#7 →
    decode w = .ok (.lui (rdOf w) (BitVec.ofNat 32 (w.toNat / 4096 * 4096)))) ∧
  ∀ (s : State) (rd : RegIdx) (imm : Word),
    (∃ t, exec (.lui rd imm) s = .next t ∧ WritesOnlyRd s t rd imm .continued) ∧
    (s.AboutToRun (.lui rd imm) → ∃ t, step s = .next t ∧ WritesReg s t rd imm ∧ t.pc = s.pc + 4#32)

/-- R151; the wrap is the spec's D8. -/
def Obligations.AuipcAddsToThePc : Prop :=
  ∀ (s : State) (rd : RegIdx) (imm : Word), ∃ t, exec (.auipc rd imm) s = .next t ∧
    WritesOnlyRd s t rd (BitVec.ofNat 32 (s.pc.toNat + imm.toNat)) .continued

/-- R170, R179; the wrap is the spec's D8, the missing mask D10. -/
def Obligations.JalLinksAndJumps : Prop :=
  ∀ (s : State) (rd : RegIdx) (imm : Word), ∃ t, exec (.jal rd imm) s = .next t ∧
    WritesReg s t rd (BitVec.ofNat 32 (s.pc.toNat + 4)) ∧
    JumpsTo s t (BitVec.ofNat 32 (s.pc.toNat + imm.toNat))

/-- R171, R179; the read order is the spec's D9, the kept bit D10. -/
def Obligations.JalrJumpsToTheOldRegister : Prop :=
  ∀ (s : State) (rd rs1 : RegIdx) (imm : Word), ∃ t, exec (.jalr rd rs1 imm) s = .next t ∧
    WritesReg s t rd (BitVec.ofNat 32 (s.pc.toNat + 4)) ∧
    JumpsTo s t (BitVec.ofNat 32 ((s.readReg rs1).toNat + imm.toNat))

/-- R172 to R178; the wrap is the spec's D8. -/
def Obligations.BranchesCompareAndJump : Prop :=
  ∀ (s : State) (rs1 rs2 : RegIdx) (imm : Word),
    let a := s.readReg rs1
    let b := s.readReg rs2
    let target := BitVec.ofNat 32 (s.pc.toNat + imm.toNat)
    (∃ t, exec (.beq rs1 rs2 imm) s = .next t ∧ KeepsRegs s t ∧
      JumpsTo s t (if a = b then target else s.nextPc)) ∧
    (∃ t, exec (.bne rs1 rs2 imm) s = .next t ∧ KeepsRegs s t ∧
      JumpsTo s t (if a ≠ b then target else s.nextPc)) ∧
    (∃ t, exec (.blt rs1 rs2 imm) s = .next t ∧ KeepsRegs s t ∧
      JumpsTo s t (if a.toInt < b.toInt then target else s.nextPc)) ∧
    (∃ t, exec (.bge rs1 rs2 imm) s = .next t ∧ KeepsRegs s t ∧
      JumpsTo s t (if a.toInt ≥ b.toInt then target else s.nextPc)) ∧
    (∃ t, exec (.bltu rs1 rs2 imm) s = .next t ∧ KeepsRegs s t ∧
      JumpsTo s t (if a.toNat < b.toNat then target else s.nextPc)) ∧
    (∃ t, exec (.bgeu rs1 rs2 imm) s = .next t ∧ KeepsRegs s t ∧
      JumpsTo s t (if a.toNat ≥ b.toNat then target else s.nextPc))

/-- R200 to R205, R210; no alignment is asked for (D33). -/
def Obligations.LoadsReadMemoryInRange : Prop :=
  ∀ (s : State) (rd rs1 : RegIdx) (imm : Word),
    let ea := s.readReg rs1 + imm
    (ea.toNat + 1 ≤ s.cfg.msize → ∃ t, exec (.lb rd rs1 imm) s = .next t ∧
      WritesOnlyRd s t rd (BitVec.ofInt 32 (signedValue 8 (s.byteVal ea 0))) .continued) ∧
    (ea.toNat + 2 ≤ s.cfg.msize → ∃ t, exec (.lh rd rs1 imm) s = .next t ∧
      WritesOnlyRd s t rd (BitVec.ofInt 32 (signedValue 16 (s.byteVal ea 0 + 256 * s.byteVal ea 1))) .continued) ∧
    (ea.toNat + 4 ≤ s.cfg.msize → ∃ t, exec (.lw rd rs1 imm) s = .next t ∧
      WritesOnlyRd s t rd (BitVec.ofNat 32 (s.byteVal ea 0 + 256 * s.byteVal ea 1 + 65536 * s.byteVal ea 2 +
        16777216 * s.byteVal ea 3)) .continued) ∧
    (ea.toNat + 1 ≤ s.cfg.msize → ∃ t, exec (.lbu rd rs1 imm) s = .next t ∧
      WritesOnlyRd s t rd (BitVec.ofNat 32 (s.byteVal ea 0)) .continued) ∧
    (ea.toNat + 2 ≤ s.cfg.msize → ∃ t, exec (.lhu rd rs1 imm) s = .next t ∧
      WritesOnlyRd s t rd (BitVec.ofNat 32 (s.byteVal ea 0 + 256 * s.byteVal ea 1)) .continued)

/-- R133, R200 to R205; the written 0 and the PC's advance are the spec's D20. -/
def Obligations.LoadsOutOfRangeWriteZero : Prop :=
  ∀ (s : State) (rd rs1 : RegIdx) (imm : Word),
    let ea := s.readReg rs1 + imm
    (ea.toNat + 1 > s.cfg.msize → ∃ t, exec (.lb rd rs1 imm) s = .next t ∧
      WritesOnlyRd s t rd 0#32 (.error .addressOutOfRange)) ∧
    (ea.toNat + 2 > s.cfg.msize → ∃ t, exec (.lh rd rs1 imm) s = .next t ∧
      WritesOnlyRd s t rd 0#32 (.error .addressOutOfRange)) ∧
    (ea.toNat + 4 > s.cfg.msize → ∃ t, exec (.lw rd rs1 imm) s = .next t ∧
      WritesOnlyRd s t rd 0#32 (.error .addressOutOfRange)) ∧
    (ea.toNat + 1 > s.cfg.msize → ∃ t, exec (.lbu rd rs1 imm) s = .next t ∧
      WritesOnlyRd s t rd 0#32 (.error .addressOutOfRange)) ∧
    (ea.toNat + 2 > s.cfg.msize → ∃ t, exec (.lhu rd rs1 imm) s = .next t ∧
      WritesOnlyRd s t rd 0#32 (.error .addressOutOfRange))

/-- R206 to R209: exactly their own width (C2); the premise is the model's canonical form of memory. -/
def Obligations.StoresWriteTheirBytes : Prop :=
  ∀ (s : State) (rs1 rs2 : RegIdx) (imm : Word), s.mem.wf = true →
    let ea := s.readReg rs1 + imm
    (ea.toNat + 1 ≤ s.cfg.msize → ∃ t, exec (.sb rs1 rs2 imm) s = .next t ∧
      t.byteVal ea 0 = (s.readReg rs2).toNat / 1 % 256 ∧
      KeepsMemOutside s t ea 1 ∧ KeepsRegs s t ∧ KeepsControl s t ∧ KeepsCsr s t ∧ FallsThrough s t .continued) ∧
    (ea.toNat + 2 ≤ s.cfg.msize → ∃ t, exec (.sh rs1 rs2 imm) s = .next t ∧
      t.byteVal ea 0 = (s.readReg rs2).toNat / 1 % 256 ∧
      t.byteVal ea 1 = (s.readReg rs2).toNat / 256 % 256 ∧
      KeepsMemOutside s t ea 2 ∧ KeepsRegs s t ∧ KeepsControl s t ∧ KeepsCsr s t ∧ FallsThrough s t .continued) ∧
    (ea.toNat + 4 ≤ s.cfg.msize → ∃ t, exec (.sw rs1 rs2 imm) s = .next t ∧
      t.byteVal ea 0 = (s.readReg rs2).toNat / 1 % 256 ∧
      t.byteVal ea 1 = (s.readReg rs2).toNat / 256 % 256 ∧
      t.byteVal ea 2 = (s.readReg rs2).toNat / 65536 % 256 ∧
      t.byteVal ea 3 = (s.readReg rs2).toNat / 16777216 % 256 ∧
      KeepsMemOutside s t ea 4 ∧ KeepsRegs s t ∧ KeepsControl s t ∧ KeepsCsr s t ∧ FallsThrough s t .continued)

/-- R133, R206 to R209; the PC's advance is the spec's D20. -/
def Obligations.StoresOutOfRangeChangeNothing : Prop :=
  ∀ (s : State) (rs1 rs2 : RegIdx) (imm : Word),
    let ea := s.readReg rs1 + imm
    (ea.toNat + 1 > s.cfg.msize → ∃ t, exec (.sb rs1 rs2 imm) s = .next t ∧
      OnlyAdvances s t (.error .addressOutOfRange)) ∧
    (ea.toNat + 2 > s.cfg.msize → ∃ t, exec (.sh rs1 rs2 imm) s = .next t ∧
      OnlyAdvances s t (.error .addressOutOfRange)) ∧
    (ea.toNat + 4 > s.cfg.msize → ∃ t, exec (.sw rs1 rs2 imm) s = .next t ∧
      OnlyAdvances s t (.error .addressOutOfRange))

/-- R231 to R233; the wrap is the spec's D8. -/
def Obligations.AddImmediateAndCompares : Prop :=
  ∀ (s : State) (rd rs1 : RegIdx) (imm : Word),
    (∃ t, exec (.addi rd rs1 imm) s = .next t ∧ WritesOnlyRd s t rd
      (BitVec.ofNat 32 ((s.readReg rs1).toNat + imm.toNat)) .continued) ∧
    (∃ t, exec (.slti rd rs1 imm) s = .next t ∧ WritesOnlyRd s t rd
      (if (s.readReg rs1).toInt < imm.toInt then 1#32 else 0#32) .continued) ∧
    (∃ t, exec (.sltiu rd rs1 imm) s = .next t ∧ WritesOnlyRd s t rd
      (if (s.readReg rs1).toNat < imm.toNat then 1#32 else 0#32) .continued)

/-- R234 to R236. -/
def Obligations.LogicImmediates : Prop :=
  ∀ (s : State) (rd rs1 : RegIdx) (imm : Word),
    (∃ t, exec (.xori rd rs1 imm) s = .next t ∧ WritesOnlyRd s t rd
      (BitVec.ofNat 32 ((s.readReg rs1).toNat ^^^ imm.toNat)) .continued) ∧
    (∃ t, exec (.ori rd rs1 imm) s = .next t ∧ WritesOnlyRd s t rd
      (BitVec.ofNat 32 ((s.readReg rs1).toNat ||| imm.toNat)) .continued) ∧
    (∃ t, exec (.andi rd rs1 imm) s = .next t ∧ WritesOnlyRd s t rd
      (BitVec.ofNat 32 ((s.readReg rs1).toNat &&& imm.toNat)) .continued)

/-- R237 to R239. -/
def Obligations.ShiftImmediates : Prop :=
  ∀ (s : State) (rd rs1 : RegIdx) (shamt : BitVec 5),
    (∃ t, exec (.slli rd rs1 shamt) s = .next t ∧ WritesOnlyRd s t rd
      (BitVec.ofNat 32 ((s.readReg rs1).toNat * 2 ^ shamt.toNat)) .continued) ∧
    (∃ t, exec (.srli rd rs1 shamt) s = .next t ∧ WritesOnlyRd s t rd
      (BitVec.ofNat 32 ((s.readReg rs1).toNat / 2 ^ shamt.toNat)) .continued) ∧
    (∃ t, exec (.srai rd rs1 shamt) s = .next t ∧ WritesOnlyRd s t rd
      (BitVec.ofInt 32 ((s.readReg rs1).toInt / 2 ^ shamt.toNat)) .continued)

/-- R261, R262; the wrap is the spec's D8, the read order D9. -/
def Obligations.AddAndSubtract : Prop :=
  ∀ (s : State) (rd rs1 rs2 : RegIdx),
    (∃ t, exec (.add rd rs1 rs2) s = .next t ∧ WritesOnlyRd s t rd
      (BitVec.ofNat 32 ((s.readReg rs1).toNat + (s.readReg rs2).toNat)) .continued) ∧
    (∃ t, exec (.sub rd rs1 rs2) s = .next t ∧ WritesOnlyRd s t rd
      (BitVec.ofInt 32 ((s.readReg rs1).toInt - (s.readReg rs2).toInt)) .continued)

/-- R264, R265. -/
def Obligations.RegisterCompares : Prop :=
  ∀ (s : State) (rd rs1 rs2 : RegIdx),
    (∃ t, exec (.slt rd rs1 rs2) s = .next t ∧ WritesOnlyRd s t rd
      (if (s.readReg rs1).toInt < (s.readReg rs2).toInt then 1#32 else 0#32) .continued) ∧
    (∃ t, exec (.sltu rd rs1 rs2) s = .next t ∧ WritesOnlyRd s t rd
      (if (s.readReg rs1).toNat < (s.readReg rs2).toNat then 1#32 else 0#32) .continued)

/-- R266, R269, R270. -/
def Obligations.RegisterLogic : Prop :=
  ∀ (s : State) (rd rs1 rs2 : RegIdx),
    (∃ t, exec (.xor rd rs1 rs2) s = .next t ∧ WritesOnlyRd s t rd
      (BitVec.ofNat 32 ((s.readReg rs1).toNat ^^^ (s.readReg rs2).toNat)) .continued) ∧
    (∃ t, exec (.or rd rs1 rs2) s = .next t ∧ WritesOnlyRd s t rd
      (BitVec.ofNat 32 ((s.readReg rs1).toNat ||| (s.readReg rs2).toNat)) .continued) ∧
    (∃ t, exec (.and rd rs1 rs2) s = .next t ∧ WritesOnlyRd s t rd
      (BitVec.ofNat 32 ((s.readReg rs1).toNat &&& (s.readReg rs2).toNat)) .continued)

/-- R263, R267, R268. -/
def Obligations.RegisterShifts : Prop :=
  ∀ (s : State) (rd rs1 rs2 : RegIdx),
    (∃ t, exec (.sll rd rs1 rs2) s = .next t ∧ WritesOnlyRd s t rd
      (BitVec.ofNat 32 ((s.readReg rs1).toNat * 2 ^ ((s.readReg rs2).toNat % 32))) .continued) ∧
    (∃ t, exec (.srl rd rs1 rs2) s = .next t ∧ WritesOnlyRd s t rd
      (BitVec.ofNat 32 ((s.readReg rs1).toNat / 2 ^ ((s.readReg rs2).toNat % 32))) .continued) ∧
    (∃ t, exec (.sra rd rs1 rs2) s = .next t ∧ WritesOnlyRd s t rd
      (BitVec.ofInt 32 ((s.readReg rs1).toInt / 2 ^ ((s.readReg rs2).toNat % 32))) .continued)

/-- R66, R290, R291. That the fields are ignored is the spec's D14 (log entry 10); that they are operands of the instruction
is the model's choice (log entry 12). -/
def Obligations.FencesOnlyAdvance : Prop :=
  ∀ (s : State) (rd rs1 : RegIdx) (fields : BitVec 12),
    (∃ t, exec (.fence rd rs1 fields) s = .next t ∧ OnlyAdvances s t .continued) ∧
    (∃ t, exec (.fenceI rd rs1 fields) s = .next t ∧ OnlyAdvances s t .continued) ∧
    ∀ i, i = .fence rd rs1 fields ∨ i = .fenceI rd rs1 fields → s.AboutToRun i →
      ∃ t, step s = .next t ∧ KeepsRegs s t ∧ KeepsMem s t ∧ t.pc = s.pc + 4#32 ∧ t.result = some .continued

/-- R293, R294, R134, R327; PC and run are the spec's D16. -/
def Obligations.EcallAndEbreakTrap : Prop :=
  ∀ s : State,
    (∃ t, exec .ecall s = .next t ∧ OnlyAdvances s t (.trapped .ecall)) ∧
    ∃ t, exec .ebreak s = .next t ∧ OnlyAdvances s t (.trapped .ebreak)

/-- R295 to R298; the meaning is the spec's D17, the draw counter the model's (log entry 5). -/
def Obligations.CsrRegisterFormsEmitAndDraw : Prop :=
  ∀ (s : State) (rd rs1 : RegIdx) (csr : BitVec 12),
    (∃ t, exec (.csrrw rd csr rs1) s = .next t ∧ WritesReg s t rd (Config.csrRdata s.csrDraws) ∧
      t.hook = some ⟨.write, csr, rd, s.readReg rs1⟩ ∧ t.csrDraws = s.csrDraws + 1 ∧ KeepsMem s t ∧ KeepsControl s t ∧
      FallsThrough s t .continued) ∧
    (∃ t, exec (.csrrs rd csr rs1) s = .next t ∧ WritesReg s t rd (Config.csrRdata s.csrDraws) ∧
      t.hook = some ⟨.setBits, csr, rd, s.readReg rs1⟩ ∧ t.csrDraws = s.csrDraws + 1 ∧ KeepsMem s t ∧ KeepsControl s t ∧
      FallsThrough s t .continued) ∧
    (∃ t, exec (.csrrc rd csr rs1) s = .next t ∧ WritesReg s t rd (Config.csrRdata s.csrDraws) ∧
      t.hook = some ⟨.clearBits, csr, rd, s.readReg rs1⟩ ∧ t.csrDraws = s.csrDraws + 1 ∧ KeepsMem s t ∧ KeepsControl s t ∧
      FallsThrough s t .continued)

/-- R295, R299 to R301; the meaning is the spec's D17, the draw counter the model's (log entry 5). -/
def Obligations.CsrImmediateFormsEmitAndDraw : Prop :=
  ∀ (s : State) (rd : RegIdx) (csr : BitVec 12) (zimm : Word),
    (∃ t, exec (.csrrwi rd csr zimm) s = .next t ∧ WritesReg s t rd (Config.csrRdata s.csrDraws) ∧
      t.hook = some ⟨.write, csr, rd, zimm⟩ ∧ t.csrDraws = s.csrDraws + 1 ∧ KeepsMem s t ∧ KeepsControl s t ∧
      FallsThrough s t .continued) ∧
    (∃ t, exec (.csrrsi rd csr zimm) s = .next t ∧ WritesReg s t rd (Config.csrRdata s.csrDraws) ∧
      t.hook = some ⟨.setBits, csr, rd, zimm⟩ ∧ t.csrDraws = s.csrDraws + 1 ∧ KeepsMem s t ∧ KeepsControl s t ∧
      FallsThrough s t .continued) ∧
    (∃ t, exec (.csrrci rd csr zimm) s = .next t ∧ WritesReg s t rd (Config.csrRdata s.csrDraws) ∧
      t.hook = some ⟨.clearBits, csr, rd, zimm⟩ ∧ t.csrDraws = s.csrDraws + 1 ∧ KeepsMem s t ∧ KeepsControl s t ∧
      FallsThrough s t .continued)

/-- R95, which the spec derives: no hint has a meaning of its own. That the NOP leaves a stored R[0] as it was is R354 and
R231, against the wording of R95 (log entry 19). -/
def Obligations.NopOnlyAdvances : Prop :=
  ∀ s : State,
    (∃ t, exec (.addi 0#5 0#5 0#32) s = .next t ∧ OnlyAdvances s t .continued) ∧
    (s.cfg.reg0Hardwired = true → ∀ (rs1 rs2 : RegIdx) (imm : Word) (shamt : BitVec 5),
      ∀ i ∈ aluToZero rs1 rs2 imm shamt, ∃ t, exec i s = .next t ∧ OnlyAdvances s t .continued)

/-- R99's expansion of li (general knowledge, G5). -/
def Obligations.LoadImmediatePseudoBuildsTheConstant : Prop :=
  ∀ (s : State) (rd : RegIdx) (imm : Word), s.readReg 0#5 = 0#32 →
    (∀ i ∈ (Pseudo.li rd imm).expand, i.wf = true) ∧
    ∃ t, execAll (Pseudo.li rd imm).expand s = .next t ∧ WritesReg s t rd imm ∧ KeepsMem s t
end

