-- ==== Sys2Proof/Laws/Decode.lean ====
section
/-! SUPPORT. The fields of an encoded word: one lemma per format and field (spec R81 to R89), the dispatch rows, and what
a well-formed immediate gives back. -/

namespace Sys2Proof

/-! ## The fields the encoder puts in place -/

@[simp] theorem opcodeOf_encodeR (f7 : BitVec 7) (rs2 rs1 : RegIdx) (f3 : BitVec 3) (rd : RegIdx) (op : BitVec 7) :
    opcodeOf (encodeR f7 rs2 rs1 f3 rd op) = op := by
  apply BitVec.eq_of_getLsbD_eq
  intro i hi
  simp only [opcodeOf, encodeR, BitVec.getLsbD_extractLsb', BitVec.getLsbD_append]
  interval_cases i <;> simp

@[simp] theorem rdOf_encodeR (f7 : BitVec 7) (rs2 rs1 : RegIdx) (f3 : BitVec 3) (rd : RegIdx) (op : BitVec 7) :
    rdOf (encodeR f7 rs2 rs1 f3 rd op) = rd := by
  apply BitVec.eq_of_getLsbD_eq
  intro i hi
  simp only [rdOf, encodeR, BitVec.getLsbD_extractLsb', BitVec.getLsbD_append]
  interval_cases i <;> simp

@[simp] theorem funct3Of_encodeR (f7 : BitVec 7) (rs2 rs1 : RegIdx) (f3 : BitVec 3) (rd : RegIdx) (op : BitVec 7) :
    funct3Of (encodeR f7 rs2 rs1 f3 rd op) = f3 := by
  apply BitVec.eq_of_getLsbD_eq
  intro i hi
  simp only [funct3Of, encodeR, BitVec.getLsbD_extractLsb', BitVec.getLsbD_append]
  interval_cases i <;> simp

@[simp] theorem rs1Of_encodeR (f7 : BitVec 7) (rs2 rs1 : RegIdx) (f3 : BitVec 3) (rd : RegIdx) (op : BitVec 7) :
    rs1Of (encodeR f7 rs2 rs1 f3 rd op) = rs1 := by
  apply BitVec.eq_of_getLsbD_eq
  intro i hi
  simp only [rs1Of, encodeR, BitVec.getLsbD_extractLsb', BitVec.getLsbD_append]
  interval_cases i <;> simp

@[simp] theorem rs2Of_encodeR (f7 : BitVec 7) (rs2 rs1 : RegIdx) (f3 : BitVec 3) (rd : RegIdx) (op : BitVec 7) :
    rs2Of (encodeR f7 rs2 rs1 f3 rd op) = rs2 := by
  apply BitVec.eq_of_getLsbD_eq
  intro i hi
  simp only [rs2Of, encodeR, BitVec.getLsbD_extractLsb', BitVec.getLsbD_append]
  interval_cases i <;> simp

@[simp] theorem funct7Of_encodeR (f7 : BitVec 7) (rs2 rs1 : RegIdx) (f3 : BitVec 3) (rd : RegIdx) (op : BitVec 7) :
    funct7Of (encodeR f7 rs2 rs1 f3 rd op) = f7 := by
  apply BitVec.eq_of_getLsbD_eq
  intro i hi
  simp only [funct7Of, encodeR, BitVec.getLsbD_extractLsb', BitVec.getLsbD_append]
  interval_cases i <;> simp


@[simp] theorem opcodeOf_encodeRawI (field : BitVec 12) (rs1 : RegIdx) (f3 : BitVec 3) (rd : RegIdx) (op : BitVec 7) :
    opcodeOf (encodeRawI field rs1 f3 rd op) = op := by
  apply BitVec.eq_of_getLsbD_eq
  intro i hi
  simp only [opcodeOf, encodeRawI, BitVec.getLsbD_extractLsb', BitVec.getLsbD_append]
  interval_cases i <;> simp

@[simp] theorem rdOf_encodeRawI (field : BitVec 12) (rs1 : RegIdx) (f3 : BitVec 3) (rd : RegIdx) (op : BitVec 7) :
    rdOf (encodeRawI field rs1 f3 rd op) = rd := by
  apply BitVec.eq_of_getLsbD_eq
  intro i hi
  simp only [rdOf, encodeRawI, BitVec.getLsbD_extractLsb', BitVec.getLsbD_append]
  interval_cases i <;> simp

@[simp] theorem funct3Of_encodeRawI (field : BitVec 12) (rs1 : RegIdx) (f3 : BitVec 3) (rd : RegIdx) (op : BitVec 7) :
    funct3Of (encodeRawI field rs1 f3 rd op) = f3 := by
  apply BitVec.eq_of_getLsbD_eq
  intro i hi
  simp only [funct3Of, encodeRawI, BitVec.getLsbD_extractLsb', BitVec.getLsbD_append]
  interval_cases i <;> simp

@[simp] theorem rs1Of_encodeRawI (field : BitVec 12) (rs1 : RegIdx) (f3 : BitVec 3) (rd : RegIdx) (op : BitVec 7) :
    rs1Of (encodeRawI field rs1 f3 rd op) = rs1 := by
  apply BitVec.eq_of_getLsbD_eq
  intro i hi
  simp only [rs1Of, encodeRawI, BitVec.getLsbD_extractLsb', BitVec.getLsbD_append]
  interval_cases i <;> simp

@[simp] theorem rawI_encodeRawI (field : BitVec 12) (rs1 : RegIdx) (f3 : BitVec 3) (rd : RegIdx) (op : BitVec 7) :
    rawI (encodeRawI field rs1 f3 rd op) = field := by
  apply BitVec.eq_of_getLsbD_eq
  intro i hi
  simp only [rawI, encodeRawI, BitVec.getLsbD_extractLsb', BitVec.getLsbD_append]
  interval_cases i <;> simp


@[simp] theorem opcodeOf_encodeS (imm : Word) (rs2 rs1 : RegIdx) (f3 : BitVec 3) (op : BitVec 7) :
    opcodeOf (encodeS imm rs2 rs1 f3 op) = op := by
  apply BitVec.eq_of_getLsbD_eq
  intro i hi
  simp only [opcodeOf, encodeS, BitVec.getLsbD_extractLsb', BitVec.getLsbD_append]
  interval_cases i <;> simp

@[simp] theorem funct3Of_encodeS (imm : Word) (rs2 rs1 : RegIdx) (f3 : BitVec 3) (op : BitVec 7) :
    funct3Of (encodeS imm rs2 rs1 f3 op) = f3 := by
  apply BitVec.eq_of_getLsbD_eq
  intro i hi
  simp only [funct3Of, encodeS, BitVec.getLsbD_extractLsb', BitVec.getLsbD_append]
  interval_cases i <;> simp

@[simp] theorem rs1Of_encodeS (imm : Word) (rs2 rs1 : RegIdx) (f3 : BitVec 3) (op : BitVec 7) :
    rs1Of (encodeS imm rs2 rs1 f3 op) = rs1 := by
  apply BitVec.eq_of_getLsbD_eq
  intro i hi
  simp only [rs1Of, encodeS, BitVec.getLsbD_extractLsb', BitVec.getLsbD_append]
  interval_cases i <;> simp

@[simp] theorem rs2Of_encodeS (imm : Word) (rs2 rs1 : RegIdx) (f3 : BitVec 3) (op : BitVec 7) :
    rs2Of (encodeS imm rs2 rs1 f3 op) = rs2 := by
  apply BitVec.eq_of_getLsbD_eq
  intro i hi
  simp only [rs2Of, encodeS, BitVec.getLsbD_extractLsb', BitVec.getLsbD_append]
  interval_cases i <;> simp

@[simp] theorem rawS_encodeS (imm : Word) (rs2 rs1 : RegIdx) (f3 : BitVec 3) (op : BitVec 7) :
    rawS (encodeS imm rs2 rs1 f3 op) = imm.setWidth 12 := by
  apply BitVec.eq_of_getLsbD_eq
  intro i hi
  simp only [rawS, encodeS, BitVec.getLsbD_extractLsb', BitVec.getLsbD_append]
  interval_cases i <;> simp


@[simp] theorem opcodeOf_encodeB (imm : Word) (rs2 rs1 : RegIdx) (f3 : BitVec 3) (op : BitVec 7) :
    opcodeOf (encodeB imm rs2 rs1 f3 op) = op := by
  apply BitVec.eq_of_getLsbD_eq
  intro i hi
  simp only [opcodeOf, encodeB, BitVec.getLsbD_extractLsb', BitVec.getLsbD_append]
  interval_cases i <;> simp

@[simp] theorem funct3Of_encodeB (imm : Word) (rs2 rs1 : RegIdx) (f3 : BitVec 3) (op : BitVec 7) :
    funct3Of (encodeB imm rs2 rs1 f3 op) = f3 := by
  apply BitVec.eq_of_getLsbD_eq
  intro i hi
  simp only [funct3Of, encodeB, BitVec.getLsbD_extractLsb', BitVec.getLsbD_append]
  interval_cases i <;> simp

@[simp] theorem rs1Of_encodeB (imm : Word) (rs2 rs1 : RegIdx) (f3 : BitVec 3) (op : BitVec 7) :
    rs1Of (encodeB imm rs2 rs1 f3 op) = rs1 := by
  apply BitVec.eq_of_getLsbD_eq
  intro i hi
  simp only [rs1Of, encodeB, BitVec.getLsbD_extractLsb', BitVec.getLsbD_append]
  interval_cases i <;> simp

@[simp] theorem rs2Of_encodeB (imm : Word) (rs2 rs1 : RegIdx) (f3 : BitVec 3) (op : BitVec 7) :
    rs2Of (encodeB imm rs2 rs1 f3 op) = rs2 := by
  apply BitVec.eq_of_getLsbD_eq
  intro i hi
  simp only [rs2Of, encodeB, BitVec.getLsbD_extractLsb', BitVec.getLsbD_append]
  interval_cases i <;> simp


@[simp] theorem opcodeOf_encodeU (imm : Word) (rd : RegIdx) (op : BitVec 7) :
    opcodeOf (encodeU imm rd op) = op := by
  apply BitVec.eq_of_getLsbD_eq
  intro i hi
  simp only [opcodeOf, encodeU, BitVec.getLsbD_extractLsb', BitVec.getLsbD_append]
  interval_cases i <;> simp

@[simp] theorem rdOf_encodeU (imm : Word) (rd : RegIdx) (op : BitVec 7) :
    rdOf (encodeU imm rd op) = rd := by
  apply BitVec.eq_of_getLsbD_eq
  intro i hi
  simp only [rdOf, encodeU, BitVec.getLsbD_extractLsb', BitVec.getLsbD_append]
  interval_cases i <;> simp


@[simp] theorem opcodeOf_encodeJ (imm : Word) (rd : RegIdx) (op : BitVec 7) :
    opcodeOf (encodeJ imm rd op) = op := by
  apply BitVec.eq_of_getLsbD_eq
  intro i hi
  simp only [opcodeOf, encodeJ, BitVec.getLsbD_extractLsb', BitVec.getLsbD_append]
  interval_cases i <;> simp

@[simp] theorem rdOf_encodeJ (imm : Word) (rd : RegIdx) (op : BitVec 7) :
    rdOf (encodeJ imm rd op) = rd := by
  apply BitVec.eq_of_getLsbD_eq
  intro i hi
  simp only [rdOf, encodeJ, BitVec.getLsbD_extractLsb', BitVec.getLsbD_append]
  interval_cases i <;> simp

/-- Bit 0 of a branch immediate is 0, and the word gives its low 13 bits back (R85). -/
theorem rawB_encodeB (imm : Word) (rs2 rs1 : RegIdx) (f3 : BitVec 3) (op : BitVec 7) (h : imm.getLsbD 0 = false) :
    rawB (encodeB imm rs2 rs1 f3 op) = imm.setWidth 13 := by
  have h0 : imm[0] = false := by simpa using h
  apply BitVec.eq_of_getLsbD_eq
  intro i hi
  simp only [rawB, encodeB, BitVec.getLsbD_extractLsb', BitVec.getLsbD_append]
  interval_cases i <;> simp [h0]

/-- Bit 0 of a jump immediate is 0, and the word gives its low 21 bits back (R87). -/
theorem rawJ_encodeJ (imm : Word) (rd : RegIdx) (op : BitVec 7) (h : imm.getLsbD 0 = false) :
    rawJ (encodeJ imm rd op) = imm.setWidth 21 := by
  have h0 : imm[0] = false := by simpa using h
  apply BitVec.eq_of_getLsbD_eq
  intro i hi
  simp only [rawJ, encodeJ, BitVec.getLsbD_extractLsb', BitVec.getLsbD_append]
  interval_cases i <;> simp [h0]

/-- The word gives back an immediate whose low 12 bits are 0 (R86). -/
theorem immUOf_encodeU (imm : Word) (rd : RegIdx) (op : BitVec 7) (h : fitsUpper imm = true) :
    immUOf (encodeU imm rd op) = imm := by
  have h0 : imm.setWidth 12 = 0#12 := by simpa [fitsUpper] using h
  apply BitVec.eq_of_getLsbD_eq
  intro i hi
  have hb : i < 12 → imm.getLsbD i = false := fun h12 => by
    have := congrArg (fun v => BitVec.getLsbD v i) h0
    simpa [BitVec.getLsbD_setWidth, h12] using this
  simp only [immUOf, encodeU, BitVec.getLsbD_extractLsb', BitVec.getLsbD_append]
  interval_cases i <;> simp_all

/-! ## Well-formed immediates -/

theorem signExtend_of_fitsSigned12 {imm : Word} (h : fitsSigned12 imm = true) :
    (imm.setWidth 12).signExtend 32 = imm := by
  simpa [fitsSigned12] using h

theorem signExtend_of_fitsBranch {imm : Word} (h : fitsBranch imm = true) :
    (imm.setWidth 13).signExtend 32 = imm ∧ imm.getLsbD 0 = false := by
  simpa [fitsBranch] using h

theorem signExtend_of_fitsJump {imm : Word} (h : fitsJump imm = true) :
    (imm.setWidth 21).signExtend 32 = imm ∧ imm.getLsbD 0 = false := by
  simpa [fitsJump] using h

theorem setWidth_of_fitsZimm {imm : Word} (h : fitsZimm imm = true) : (imm.setWidth 5).setWidth 32 = imm := by
  simpa [fitsZimm] using h

/-! ## A word is put together again from its own fields (R82), and its immediates are well formed -/

theorem encodeR_fields (w : Word) :
    encodeR (funct7Of w) (rs2Of w) (rs1Of w) (funct3Of w) (rdOf w) (opcodeOf w) = w := by
  apply BitVec.eq_of_getLsbD_eq
  intro i hi
  simp only [encodeR, funct7Of, rs2Of, rs1Of, funct3Of, rdOf, opcodeOf,
    BitVec.getLsbD_extractLsb', BitVec.getLsbD_append]
  interval_cases i <;> simp

theorem encodeRawI_fields (w : Word) :
    encodeRawI (rawI w) (rs1Of w) (funct3Of w) (rdOf w) (opcodeOf w) = w := by
  apply BitVec.eq_of_getLsbD_eq
  intro i hi
  simp only [encodeRawI, rawI, rs1Of, funct3Of, rdOf, opcodeOf,
    BitVec.getLsbD_extractLsb', BitVec.getLsbD_append]
  interval_cases i <;> simp

theorem encodeI_fields (w : Word) :
    encodeI ((rawI w).signExtend 32) (rs1Of w) (funct3Of w) (rdOf w) (opcodeOf w) = w := by
  have h : ((rawI w).signExtend 32).extractLsb' 0 12 = rawI w := by
    apply BitVec.eq_of_getLsbD_eq
    intro i hi
    simp only [BitVec.getLsbD_extractLsb', BitVec.getLsbD_signExtend]
    interval_cases i <;> simp
  rw [encodeI, h, encodeRawI_fields]

theorem encodeS_fields (w : Word) :
    encodeS ((rawS w).signExtend 32) (rs2Of w) (rs1Of w) (funct3Of w) (opcodeOf w) = w := by
  apply BitVec.eq_of_getLsbD_eq
  intro i hi
  simp only [encodeS, rawS, rs1Of, rs2Of, funct3Of, opcodeOf, BitVec.getLsbD_extractLsb', BitVec.getLsbD_append,
    BitVec.getLsbD_signExtend]
  interval_cases i <;> simp

theorem encodeB_fields (w : Word) :
    encodeB ((rawB w).signExtend 32) (rs2Of w) (rs1Of w) (funct3Of w) (opcodeOf w) = w := by
  apply BitVec.eq_of_getLsbD_eq
  intro i hi
  simp only [encodeB, rawB, rs1Of, rs2Of, funct3Of, opcodeOf, BitVec.getLsbD_extractLsb', BitVec.getLsbD_append,
    BitVec.getLsbD_signExtend]
  interval_cases i <;> simp

theorem encodeU_fields (w : Word) : encodeU (immUOf w) (rdOf w) (opcodeOf w) = w := by
  apply BitVec.eq_of_getLsbD_eq
  intro i hi
  simp only [encodeU, immUOf, rdOf, opcodeOf,
    BitVec.getLsbD_extractLsb', BitVec.getLsbD_append]
  interval_cases i <;> simp

theorem encodeJ_fields (w : Word) : encodeJ ((rawJ w).signExtend 32) (rdOf w) (opcodeOf w) = w := by
  apply BitVec.eq_of_getLsbD_eq
  intro i hi
  simp only [encodeJ, rawJ, rdOf, opcodeOf, BitVec.getLsbD_extractLsb', BitVec.getLsbD_append,
    BitVec.getLsbD_signExtend]
  interval_cases i <;> simp

theorem fitsSigned12_signExtend (v : BitVec 12) : fitsSigned12 (v.signExtend 32) = true := by
  have h : (v.signExtend 32).setWidth 12 = v := by
    apply BitVec.eq_of_getLsbD_eq
    intro i hi
    simp only [BitVec.getLsbD_setWidth, BitVec.getLsbD_signExtend]
    interval_cases i <;> simp
  rw [fitsSigned12, h, beq_self_eq_true]

theorem fitsUpper_immUOf (w : Word) : fitsUpper (immUOf w) = true := by
  have h : (immUOf w).setWidth 12 = 0#12 := by
    apply BitVec.eq_of_getLsbD_eq
    intro i hi
    simp only [immUOf, BitVec.getLsbD_setWidth, BitVec.getLsbD_append]
    interval_cases i <;> simp
  rw [fitsUpper, h, beq_self_eq_true]

theorem fitsBranch_rawB (w : Word) : fitsBranch ((rawB w).signExtend 32) = true := by
  have h : ((rawB w).signExtend 32).setWidth 13 = rawB w := by
    apply BitVec.eq_of_getLsbD_eq
    intro i hi
    simp only [BitVec.getLsbD_setWidth, BitVec.getLsbD_signExtend]
    interval_cases i <;> simp
  have h0 : ((rawB w).signExtend 32).getLsbD 0 = false := by
    simp only [rawB, BitVec.getLsbD_signExtend, BitVec.getLsbD_append]
    simp
  rw [fitsBranch, h, h0, beq_self_eq_true]
  rfl

theorem fitsJump_rawJ (w : Word) : fitsJump ((rawJ w).signExtend 32) = true := by
  have h : ((rawJ w).signExtend 32).setWidth 21 = rawJ w := by
    apply BitVec.eq_of_getLsbD_eq
    intro i hi
    simp only [BitVec.getLsbD_setWidth, BitVec.getLsbD_signExtend]
    interval_cases i <;> simp
  have h0 : ((rawJ w).signExtend 32).getLsbD 0 = false := by
    simp only [rawJ, BitVec.getLsbD_signExtend, BitVec.getLsbD_append]
    simp
  rw [fitsJump, h, h0, beq_self_eq_true]
  rfl

theorem fitsZimm_setWidth (v : BitVec 5) : fitsZimm (v.setWidth 32) = true := by
  simp [fitsZimm]

theorem zimm_field (v : BitVec 5) : (v.setWidth 32).extractLsb' 0 5 = v := by
  apply BitVec.eq_of_getLsbD_eq
  intro i hi
  simp only [BitVec.getLsbD_extractLsb', BitVec.getLsbD_setWidth]
  interval_cases i <;> simp

/-! ## Dispatch rows -/

@[simp] theorem firstMatch_nil {n : Nat} (key : BitVec n) (dflt : Except DecodeError Instr) :
    firstMatch key dflt [] = dflt := rfl

@[simp] theorem firstMatch_cons {n : Nat} (key k : BitVec n) (dflt v : Except DecodeError Instr)
    (rows : List (BitVec n × Except DecodeError Instr)) :
    firstMatch key dflt ((k, v) :: rows) = if key = k then v else firstMatch key dflt rows := rfl

/-- The verdict is the default when no row has the key. -/
theorem firstMatch_of_not_mem {n : Nat} {key : BitVec n} {dflt : Except DecodeError Instr}
    {rows : List (BitVec n × Except DecodeError Instr)} (h : ∀ row ∈ rows, key ≠ row.1) :
    firstMatch key dflt rows = dflt := by
  induction rows with
  | nil => rfl
  | cons row rows ih =>
    rw [firstMatch_cons, if_neg (h row (by simp)), ih fun r hr => h r (List.mem_cons_of_mem _ hr)]

/-- A verdict is that of a row with the key, or the default of a key that no row has. -/
theorem firstMatch_cases {n : Nat} {key : BitVec n} {dflt r : Except DecodeError Instr}
    {rows : List (BitVec n × Except DecodeError Instr)} (h : firstMatch key dflt rows = r) :
    (∃ row ∈ rows, key = row.1 ∧ row.2 = r) ∨ ((∀ row ∈ rows, key ≠ row.1) ∧ dflt = r) := by
  induction rows with
  | nil => exact .inr ⟨by simp, h⟩
  | cons row rows ih =>
    rw [firstMatch_cons] at h
    by_cases hk : key = row.1
    · exact .inl ⟨row, by simp, hk, by rwa [if_pos hk] at h⟩
    · rw [if_neg hk] at h
      rcases ih h with ⟨row', hm, h1, h2⟩ | ⟨h1, h2⟩
      · exact .inl ⟨row', List.mem_cons_of_mem _ hm, h1, h2⟩
      · refine .inr ⟨fun r hr => ?_, h2⟩
        rcases List.mem_cons.1 hr with rfl | hr'
        · exact hk
        · exact h1 r hr'

/-! ## Which group decides a word (R92) -/

section

variable {w : Word}

@[simp] theorem decodeFields_opcode : (decodeFields w).opcode = opcodeOf w := rfl
@[simp] theorem decodeFields_rd : (decodeFields w).rd = rdOf w := rfl
@[simp] theorem decodeFields_rs1 : (decodeFields w).rs1 = rs1Of w := rfl
@[simp] theorem decodeFields_rs2 : (decodeFields w).rs2 = rs2Of w := rfl
@[simp] theorem decodeFields_funct3 : (decodeFields w).funct3 = funct3Of w := rfl
@[simp] theorem decodeFields_funct7 : (decodeFields w).funct7 = funct7Of w := rfl
@[simp] theorem decodeFields_shamt : (decodeFields w).shamt = rs2Of w := rfl
@[simp] theorem decodeFields_immI : (decodeFields w).immI = (rawI w).signExtend 32 := rfl
@[simp] theorem decodeFields_immS : (decodeFields w).immS = (rawS w).signExtend 32 := rfl
@[simp] theorem decodeFields_immB : (decodeFields w).immB = (rawB w).signExtend 32 := rfl
@[simp] theorem decodeFields_immU : (decodeFields w).immU = immUOf w := rfl
@[simp] theorem decodeFields_immJ : (decodeFields w).immJ = (rawJ w).signExtend 32 := rfl
@[simp] theorem decodeFields_csr : (decodeFields w).csr = rawI w := rfl
@[simp] theorem decodeFields_zimm : (decodeFields w).zimm = (rs1Of w).setWidth 32 := rfl

theorem decode_lui (h : opcodeOf w = 0x37#7) : decode w = .ok (.lui (rdOf w) (immUOf w)) := by
  simp [decode, dispatch, h]

theorem decode_auipc (h : opcodeOf w = 0x17#7) : decode w = .ok (.auipc (rdOf w) (immUOf w)) := by
  simp [decode, dispatch, h]

theorem decode_jal (h : opcodeOf w = 0x6F#7) : decode w = .ok (.jal (rdOf w) ((rawJ w).signExtend 32)) := by
  simp [decode, dispatch, h]

theorem decode_jalr (h : opcodeOf w = 0x67#7) : decode w = dispatchJalr (decodeFields w) := by
  simp [decode, dispatch, h]

theorem decode_branch (h : opcodeOf w = 0x63#7) : decode w = dispatchBranch (decodeFields w) := by
  simp [decode, dispatch, h]

theorem decode_load (h : opcodeOf w = 0x03#7) : decode w = dispatchLoad (decodeFields w) := by
  simp [decode, dispatch, h]

theorem decode_store (h : opcodeOf w = 0x23#7) : decode w = dispatchStore (decodeFields w) := by
  simp [decode, dispatch, h]

theorem decode_opImm (h : opcodeOf w = 0x13#7) : decode w = dispatchOpImm (decodeFields w) := by
  simp [decode, dispatch, h]

theorem decode_op (h : opcodeOf w = 0x33#7) : decode w = dispatchOp (decodeFields w) := by
  simp [decode, dispatch, h]

theorem decode_fences (h : opcodeOf w = 0x0F#7) : decode w = dispatchFences (decodeFields w) := by
  simp [decode, dispatch, h]

theorem decode_system (h : opcodeOf w = 0x73#7) : decode w = dispatchSystem (decodeFields w) w := by
  simp [decode, dispatch, h]

/-- An opcode is one of the eleven of R92 or none of them. -/
theorem opcode_cases (o : BitVec 7) :
    o = 0x37#7 ∨ o = 0x17#7 ∨ o = 0x6F#7 ∨ o = 0x67#7 ∨ o = 0x63#7 ∨ o = 0x03#7 ∨ o = 0x23#7 ∨ o = 0x13#7 ∨
      o = 0x33#7 ∨ o = 0x0F#7 ∨ o = 0x73#7 ∨
      o ∉ [0x37#7, 0x17#7, 0x6F#7, 0x67#7, 0x63#7, 0x03#7, 0x23#7, 0x13#7, 0x33#7, 0x0F#7, 0x73#7] := by
  revert o
  decide

/-- A word whose opcode is none of the eleven is illegal (R92). -/
theorem decode_other
    (h : opcodeOf w ∉ [0x37#7, 0x17#7, 0x6F#7, 0x67#7, 0x63#7, 0x03#7, 0x23#7, 0x13#7, 0x33#7, 0x0F#7, 0x73#7]) :
    decode w = .error .illegalInstruction := by
  refine firstMatch_of_not_mem fun row hrow hk => h ?_
  rw [← decodeFields_opcode, hk]
  simp only [List.mem_cons, List.not_mem_nil, or_false] at hrow
  rcases hrow with rfl | rfl | rfl | rfl | rfl | rfl | rfl | rfl | rfl | rfl | rfl <;> simp

/-- The eight values of funct3. -/
theorem funct3_cases (f : BitVec 3) :
    f = 0#3 ∨ f = 1#3 ∨ f = 2#3 ∨ f = 3#3 ∨ f = 4#3 ∨ f = 5#3 ∨ f = 6#3 ∨ f = 7#3 := by
  revert f
  decide

end

end Sys2Proof
end

