-- ==== Sys2Proof/Laws/State.lean ====
section
/-! SUPPORT. One lemma per field per named update of the state, true by definition, so that no proof unfolds a record
update. -/

namespace Sys2Proof.Machine.State

variable (s : State)

@[simp] theorem writeReg_cfg (r : RegIdx) (v : Word) : (s.writeReg r v).cfg = s.cfg := rfl
@[simp] theorem writeReg_regs (r : RegIdx) (v : Word) : (s.writeReg r v).regs = if s.isZeroReg r then s.regs else s.regs.set r.toNat v r.isLt := rfl
@[simp] theorem writeReg_pc (r : RegIdx) (v : Word) : (s.writeReg r v).pc = s.pc := rfl
@[simp] theorem writeReg_nextPc (r : RegIdx) (v : Word) : (s.writeReg r v).nextPc = s.nextPc := rfl
@[simp] theorem writeReg_ir (r : RegIdx) (v : Word) : (s.writeReg r v).ir = s.ir := rfl
@[simp] theorem writeReg_decoded (r : RegIdx) (v : Word) : (s.writeReg r v).decoded = s.decoded := rfl
@[simp] theorem writeReg_run (r : RegIdx) (v : Word) : (s.writeReg r v).run = s.run := rfl
@[simp] theorem writeReg_mem (r : RegIdx) (v : Word) : (s.writeReg r v).mem = s.mem := rfl
@[simp] theorem writeReg_result (r : RegIdx) (v : Word) : (s.writeReg r v).result = s.result := rfl
@[simp] theorem writeReg_hook (r : RegIdx) (v : Word) : (s.writeReg r v).hook = s.hook := rfl
@[simp] theorem writeReg_csrDraws (r : RegIdx) (v : Word) : (s.writeReg r v).csrDraws = s.csrDraws := rfl

@[simp] theorem memWrite_cfg (a : Word) (w : Width) (v : Word) : (s.memWrite a w v).cfg = s.cfg := rfl
@[simp] theorem memWrite_regs (a : Word) (w : Width) (v : Word) : (s.memWrite a w v).regs = s.regs := rfl
@[simp] theorem memWrite_pc (a : Word) (w : Width) (v : Word) : (s.memWrite a w v).pc = s.pc := rfl
@[simp] theorem memWrite_nextPc (a : Word) (w : Width) (v : Word) : (s.memWrite a w v).nextPc = s.nextPc := rfl
@[simp] theorem memWrite_ir (a : Word) (w : Width) (v : Word) : (s.memWrite a w v).ir = s.ir := rfl
@[simp] theorem memWrite_decoded (a : Word) (w : Width) (v : Word) : (s.memWrite a w v).decoded = s.decoded := rfl
@[simp] theorem memWrite_run (a : Word) (w : Width) (v : Word) : (s.memWrite a w v).run = s.run := rfl
@[simp] theorem memWrite_mem (a : Word) (w : Width) (v : Word) : (s.memWrite a w v).mem = if s.inRange a w then s.mem.writeBytes a.toNat (w.bytesOf v) else s.mem := rfl
@[simp] theorem memWrite_result (a : Word) (w : Width) (v : Word) : (s.memWrite a w v).result = s.result := rfl
@[simp] theorem memWrite_hook (a : Word) (w : Width) (v : Word) : (s.memWrite a w v).hook = s.hook := rfl
@[simp] theorem memWrite_csrDraws (a : Word) (w : Width) (v : Word) : (s.memWrite a w v).csrDraws = s.csrDraws := rfl

@[simp] theorem setNextPc_cfg (target : Word) : (s.setNextPc target).cfg = s.cfg := rfl
@[simp] theorem setNextPc_regs (target : Word) : (s.setNextPc target).regs = s.regs := rfl
@[simp] theorem setNextPc_pc (target : Word) : (s.setNextPc target).pc = s.pc := rfl
@[simp] theorem setNextPc_nextPc (target : Word) : (s.setNextPc target).nextPc = target := rfl
@[simp] theorem setNextPc_ir (target : Word) : (s.setNextPc target).ir = s.ir := rfl
@[simp] theorem setNextPc_decoded (target : Word) : (s.setNextPc target).decoded = s.decoded := rfl
@[simp] theorem setNextPc_run (target : Word) : (s.setNextPc target).run = s.run := rfl
@[simp] theorem setNextPc_mem (target : Word) : (s.setNextPc target).mem = s.mem := rfl
@[simp] theorem setNextPc_result (target : Word) : (s.setNextPc target).result = s.result := rfl
@[simp] theorem setNextPc_hook (target : Word) : (s.setNextPc target).hook = s.hook := rfl
@[simp] theorem setNextPc_csrDraws (target : Word) : (s.setNextPc target).csrDraws = s.csrDraws := rfl

@[simp] theorem commit_cfg (r : StepResult) : (s.commit r).cfg = s.cfg := rfl
@[simp] theorem commit_regs (r : StepResult) : (s.commit r).regs = s.regs := rfl
@[simp] theorem commit_pc (r : StepResult) : (s.commit r).pc = s.nextPc := rfl
@[simp] theorem commit_nextPc (r : StepResult) : (s.commit r).nextPc = s.nextPc := rfl
@[simp] theorem commit_ir (r : StepResult) : (s.commit r).ir = s.ir := rfl
@[simp] theorem commit_decoded (r : StepResult) : (s.commit r).decoded = s.decoded := rfl
@[simp] theorem commit_run (r : StepResult) : (s.commit r).run = s.run := rfl
@[simp] theorem commit_mem (r : StepResult) : (s.commit r).mem = s.mem := rfl
@[simp] theorem commit_result (r : StepResult) : (s.commit r).result = some r := rfl
@[simp] theorem commit_hook (r : StepResult) : (s.commit r).hook = s.hook := rfl
@[simp] theorem commit_csrDraws (r : StepResult) : (s.commit r).csrDraws = s.csrDraws := rfl

@[simp] theorem takeTrap_cfg (k : TrapKind) : (s.takeTrap k).cfg = s.cfg := rfl
@[simp] theorem takeTrap_regs (k : TrapKind) : (s.takeTrap k).regs = s.regs := rfl
@[simp] theorem takeTrap_pc (k : TrapKind) : (s.takeTrap k).pc = s.nextPc := rfl
@[simp] theorem takeTrap_nextPc (k : TrapKind) : (s.takeTrap k).nextPc = s.nextPc := rfl
@[simp] theorem takeTrap_ir (k : TrapKind) : (s.takeTrap k).ir = s.ir := rfl
@[simp] theorem takeTrap_decoded (k : TrapKind) : (s.takeTrap k).decoded = s.decoded := rfl
@[simp] theorem takeTrap_run (k : TrapKind) : (s.takeTrap k).run = s.run := rfl
@[simp] theorem takeTrap_mem (k : TrapKind) : (s.takeTrap k).mem = s.mem := rfl
@[simp] theorem takeTrap_result (k : TrapKind) : (s.takeTrap k).result = some (.trapped k) := rfl
@[simp] theorem takeTrap_hook (k : TrapKind) : (s.takeTrap k).hook = s.hook := rfl
@[simp] theorem takeTrap_csrDraws (k : TrapKind) : (s.takeTrap k).csrDraws = s.csrDraws := rfl

@[simp] theorem dispose_cfg (k : ErrorKind) : (s.dispose k).cfg = s.cfg := rfl
@[simp] theorem dispose_regs (k : ErrorKind) : (s.dispose k).regs = s.regs := rfl
@[simp] theorem dispose_pc (k : ErrorKind) : (s.dispose k).pc = if s.cfg.haltOnIllegal then s.pc else s.pc + 4#32 := rfl
@[simp] theorem dispose_nextPc (k : ErrorKind) : (s.dispose k).nextPc = s.nextPc := rfl
@[simp] theorem dispose_ir (k : ErrorKind) : (s.dispose k).ir = s.ir := rfl
@[simp] theorem dispose_decoded (k : ErrorKind) : (s.dispose k).decoded = s.decoded := rfl
@[simp] theorem dispose_run (k : ErrorKind) : (s.dispose k).run = if s.cfg.haltOnIllegal then .halted else s.run := rfl
@[simp] theorem dispose_mem (k : ErrorKind) : (s.dispose k).mem = s.mem := rfl
@[simp] theorem dispose_result (k : ErrorKind) : (s.dispose k).result = some (.error k) := rfl
@[simp] theorem dispose_hook (k : ErrorKind) : (s.dispose k).hook = s.hook := rfl
@[simp] theorem dispose_csrDraws (k : ErrorKind) : (s.dispose k).csrDraws = s.csrDraws := rfl

@[simp] theorem emitHook_cfg (q : CsrRequest) : (s.emitHook q).cfg = s.cfg := rfl
@[simp] theorem emitHook_regs (q : CsrRequest) : (s.emitHook q).regs = s.regs := rfl
@[simp] theorem emitHook_pc (q : CsrRequest) : (s.emitHook q).pc = s.pc := rfl
@[simp] theorem emitHook_nextPc (q : CsrRequest) : (s.emitHook q).nextPc = s.nextPc := rfl
@[simp] theorem emitHook_ir (q : CsrRequest) : (s.emitHook q).ir = s.ir := rfl
@[simp] theorem emitHook_decoded (q : CsrRequest) : (s.emitHook q).decoded = s.decoded := rfl
@[simp] theorem emitHook_run (q : CsrRequest) : (s.emitHook q).run = s.run := rfl
@[simp] theorem emitHook_mem (q : CsrRequest) : (s.emitHook q).mem = s.mem := rfl
@[simp] theorem emitHook_result (q : CsrRequest) : (s.emitHook q).result = s.result := rfl
@[simp] theorem emitHook_hook (q : CsrRequest) : (s.emitHook q).hook = some q := rfl
@[simp] theorem emitHook_csrDraws (q : CsrRequest) : (s.emitHook q).csrDraws = s.csrDraws := rfl

@[simp] theorem countDraw_cfg : s.countDraw.cfg = s.cfg := rfl
@[simp] theorem countDraw_regs : s.countDraw.regs = s.regs := rfl
@[simp] theorem countDraw_pc : s.countDraw.pc = s.pc := rfl
@[simp] theorem countDraw_nextPc : s.countDraw.nextPc = s.nextPc := rfl
@[simp] theorem countDraw_ir : s.countDraw.ir = s.ir := rfl
@[simp] theorem countDraw_decoded : s.countDraw.decoded = s.decoded := rfl
@[simp] theorem countDraw_run : s.countDraw.run = s.run := rfl
@[simp] theorem countDraw_mem : s.countDraw.mem = s.mem := rfl
@[simp] theorem countDraw_result : s.countDraw.result = s.result := rfl
@[simp] theorem countDraw_hook : s.countDraw.hook = s.hook := rfl
@[simp] theorem countDraw_csrDraws : s.countDraw.csrDraws = s.csrDraws + 1 := rfl

@[simp] theorem fetch_cfg : s.fetch.cfg = s.cfg := rfl
@[simp] theorem fetch_regs : s.fetch.regs = s.regs := rfl
@[simp] theorem fetch_pc : s.fetch.pc = s.pc := rfl
@[simp] theorem fetch_nextPc : s.fetch.nextPc = s.nextPc := rfl
@[simp] theorem fetch_ir : s.fetch.ir = s.memRead s.pc .word := rfl
@[simp] theorem fetch_decoded : s.fetch.decoded = s.decoded := rfl
@[simp] theorem fetch_run : s.fetch.run = s.run := rfl
@[simp] theorem fetch_mem : s.fetch.mem = s.mem := rfl
@[simp] theorem fetch_result : s.fetch.result = none := rfl
@[simp] theorem fetch_hook : s.fetch.hook = none := rfl
@[simp] theorem fetch_csrDraws : s.fetch.csrDraws = s.csrDraws := rfl

@[simp] theorem stage_cfg : s.stage.cfg = s.cfg := rfl
@[simp] theorem stage_regs : s.stage.regs = s.regs := rfl
@[simp] theorem stage_pc : s.stage.pc = s.pc := rfl
@[simp] theorem stage_nextPc : s.stage.nextPc = s.pc + 4#32 := rfl
@[simp] theorem stage_ir : s.stage.ir = s.ir := rfl
@[simp] theorem stage_decoded : s.stage.decoded = decodeFields s.ir := rfl
@[simp] theorem stage_run : s.stage.run = s.run := rfl
@[simp] theorem stage_mem : s.stage.mem = s.mem := rfl
@[simp] theorem stage_result : s.stage.result = s.result := rfl
@[simp] theorem stage_hook : s.stage.hook = s.hook := rfl
@[simp] theorem stage_csrDraws : s.stage.csrDraws = s.csrDraws := rfl

/-! Reset and launch (R38). -/

@[simp] theorem launch_cfg (cfg : Config) (regs : Vector Word 32) (mem : Memory) :
    (State.launch cfg regs mem).cfg = cfg := rfl
@[simp] theorem launch_regs (cfg : Config) (regs : Vector Word 32) (mem : Memory) :
    (State.launch cfg regs mem).regs = regs := rfl
@[simp] theorem launch_pc (cfg : Config) (regs : Vector Word 32) (mem : Memory) :
    (State.launch cfg regs mem).pc = cfg.resetPc := rfl
@[simp] theorem launch_run (cfg : Config) (regs : Vector Word 32) (mem : Memory) :
    (State.launch cfg regs mem).run = .running := rfl
@[simp] theorem launch_mem (cfg : Config) (regs : Vector Word 32) (mem : Memory) :
    (State.launch cfg regs mem).mem = mem := rfl
@[simp] theorem launch_result (cfg : Config) (regs : Vector Word 32) (mem : Memory) :
    (State.launch cfg regs mem).result = none := rfl
@[simp] theorem launch_hook (cfg : Config) (regs : Vector Word 32) (mem : Memory) :
    (State.launch cfg regs mem).hook = none := rfl

/-! The host's stop (R136). -/

@[simp] theorem stop_cfg : (stop s).cfg = s.cfg := rfl
@[simp] theorem stop_regs : (stop s).regs = s.regs := rfl
@[simp] theorem stop_pc : (stop s).pc = s.pc := rfl
@[simp] theorem stop_nextPc : (stop s).nextPc = s.nextPc := rfl
@[simp] theorem stop_ir : (stop s).ir = s.ir := rfl
@[simp] theorem stop_decoded : (stop s).decoded = s.decoded := rfl
@[simp] theorem stop_run : (stop s).run = .halted := rfl
@[simp] theorem stop_mem : (stop s).mem = s.mem := rfl
@[simp] theorem stop_result : (stop s).result = s.result := rfl
@[simp] theorem stop_hook : (stop s).hook = s.hook := rfl
@[simp] theorem stop_csrDraws : (stop s).csrDraws = s.csrDraws := rfl

end Sys2Proof.Machine.State
end

