-- ==== Sys2Proof/Laws/Memory.lean ====
section
/-! SUPPORT. The laws of the byte memory: every operation keeps the canonical form and the size bound, a byte read after
a write, and the bytes of a wide access (spec R50 to R63). -/

namespace Sys2Proof.Machine.Memory

/-! ## The canonical form -/

theorem wfFrom_mono {m : Memory} {lo lo' : Nat} (h : lo' ≤ lo) (hm : wfFrom lo m = true) : wfFrom lo' m = true := by
  cases m with
  | nil => rfl
  | cons c m =>
    obtain ⟨a, b⟩ := c
    simp only [wfFrom, Bool.and_eq_true, decide_eq_true_eq] at hm ⊢
    exact ⟨⟨by omega, hm.1.2⟩, hm.2⟩

/-- Below its first address a canonical memory lists nothing. -/
theorem readByte_below {m : Memory} {lo a : Nat} (hm : wfFrom lo m = true) (h : a < lo) :
    readByte m a = unlisted := by
  induction m generalizing lo with
  | nil => rfl
  | cons c m ih =>
    obtain ⟨c, b⟩ := c
    simp only [wfFrom, Bool.and_eq_true, decide_eq_true_eq] at hm
    rw [readByte, if_neg (by omega)]
    exact ih hm.2 (by omega)

theorem wfFrom_writeByte {m : Memory} {lo a : Nat} {b : Byte} (hm : wfFrom lo m = true) (h : lo ≤ a) :
    wfFrom lo (writeByte m a b) = true := by
  induction m generalizing lo with
  | nil =>
    by_cases hb : b = unlisted <;> simp [writeByte, wfFrom, hb, h]
  | cons c m ih =>
    obtain ⟨c, d⟩ := c
    have hm' := hm
    simp only [wfFrom, Bool.and_eq_true, decide_eq_true_eq] at hm
    obtain ⟨⟨h1, h2⟩, h3⟩ := hm
    unfold writeByte
    by_cases hac : a < c
    · by_cases hb : b = unlisted
      · simpa [hac, hb] using hm'
      · simp [hac, hb, wfFrom, h, h2, h3]
    · by_cases hac' : a = c
      · subst hac'
        by_cases hb : b = unlisted
        · simpa [hb] using wfFrom_mono (by omega) h3
        · simp [hb, wfFrom, h, h3]
      · simp only [hac, hac', if_false, wfFrom, Bool.and_eq_true, decide_eq_true_eq]
        exact ⟨⟨h1, h2⟩, ih h3 (by omega)⟩

/-- A byte write keeps the canonical form. -/
theorem wf_writeByte {m : Memory} (a : Nat) (b : Byte) (hm : m.wf = true) : (m.writeByte a b).wf = true :=
  wfFrom_writeByte hm (Nat.zero_le a)

/-- A wide write keeps the canonical form. -/
theorem wf_writeBytes {m : Memory} (a : Nat) (bs : List Byte) (hm : m.wf = true) :
    (m.writeBytes a bs).wf = true := by
  induction bs generalizing m a with
  | nil => exact hm
  | cons b bs ih => exact ih (a + 1) (wf_writeByte a b hm)

/-! ## The size bound -/

theorem within_cons (c : Nat) (d : Byte) (m : Memory) (size : Nat) :
    within ((c, d) :: m) size = true ↔ c < size ∧ within m size = true := by
  rw [within, List.all_cons, Bool.and_eq_true, decide_eq_true_eq, within]

theorem within_writeByte {m : Memory} {size : Nat} (a : Nat) (b : Byte) (hm : m.within size = true) (h : a < size) :
    (m.writeByte a b).within size = true := by
  induction m with
  | nil =>
    unfold writeByte
    split
    · rfl
    · exact (within_cons a b [] size).2 ⟨h, rfl⟩
  | cons c m ih =>
    obtain ⟨c, d⟩ := c
    have hc := (within_cons c d m size).1 hm
    unfold writeByte
    split
    · split
      · exact hm
      · exact (within_cons ..).2 ⟨h, hm⟩
    · split
      · split
        · exact hc.2
        · exact (within_cons ..).2 ⟨h, hc.2⟩
      · exact (within_cons ..).2 ⟨hc.1, ih hc.2⟩

theorem within_writeBytes {m : Memory} {size : Nat} (a : Nat) (bs : List Byte) (hm : m.within size = true)
    (h : a + bs.length ≤ size) : (m.writeBytes a bs).within size = true := by
  induction bs generalizing m a with
  | nil => exact hm
  | cons b bs ih =>
    simp only [List.length_cons] at h
    exact ih (a + 1) (within_writeByte a b hm (by omega)) (by omega)

/-! ## Read after write -/

theorem readByte_writeByte_from {m : Memory} {lo : Nat} (a a' : Nat) (b : Byte) (hm : wfFrom lo m = true) :
    (m.writeByte a b).readByte a' = if a' = a then b else m.readByte a' := by
  induction m generalizing lo with
  | nil =>
    by_cases hb : b = unlisted <;> by_cases ha : a' = a <;> simp [writeByte, readByte, hb, ha]
  | cons c m ih =>
    obtain ⟨c, d⟩ := c
    have hm' := hm
    simp only [wfFrom, Bool.and_eq_true, decide_eq_true_eq] at hm
    obtain ⟨⟨h1, h2⟩, h3⟩ := hm
    unfold writeByte
    by_cases hac : a < c
    · by_cases hb : b = unlisted
      · rw [if_pos hac, if_pos hb]
        by_cases ha : a' = a
        · subst ha
          rw [if_pos rfl, readByte, if_neg (by omega), readByte_below h3 (by omega), hb]
        · rw [if_neg ha]
      · simp [hac, hb, readByte]
    · rw [if_neg hac]
      by_cases hac' : a = c
      · subst hac'
        by_cases hb : b = unlisted
        · rw [if_pos rfl, if_pos hb]
          by_cases ha : a' = a
          · subst ha
            rw [if_pos rfl, readByte_below h3 (by omega), hb]
          · simp [ha, readByte]
        · by_cases ha : a' = a <;> simp [hb, readByte, ha]
      · rw [if_neg hac', readByte, ih h3, readByte]
        by_cases ha : a' = c
        · rw [if_pos ha, if_pos ha, if_neg (by omega)]
        · rw [if_neg ha, if_neg ha]

/-- A byte read after a byte write: the written byte at its address, the old byte elsewhere. -/
theorem readByte_writeByte {m : Memory} (a a' : Nat) (b : Byte) (hm : m.wf = true) :
    (m.writeByte a b).readByte a' = if a' = a then b else m.readByte a' :=
  readByte_writeByte_from a a' b hm

/-- A byte read after a wide write: byte `a' - a` of the list inside it, the old byte outside. -/
theorem readByte_writeBytes {m : Memory} (a a' : Nat) (bs : List Byte) (hm : m.wf = true) :
    (m.writeBytes a bs).readByte a' =
      if a ≤ a' ∧ a' < a + bs.length then bs.getD (a' - a) unlisted else m.readByte a' := by
  induction bs generalizing m a with
  | nil => rw [if_neg (by simp only [List.length_nil]; omega)]; rfl
  | cons b bs ih =>
    rw [writeBytes, ih (a + 1) (wf_writeByte a b hm), readByte_writeByte a a' b hm]
    simp only [List.length_cons]
    by_cases h : a' = a
    · subst h
      rw [if_neg (by omega), if_pos rfl, if_pos (by omega), Nat.sub_self]
      rfl
    · by_cases h2 : a + 1 ≤ a' ∧ a' < a + 1 + bs.length
      · rw [if_pos h2, if_pos (by omega), show a' - a = (a' - (a + 1)) + 1 by omega]
        rfl
      · rw [if_neg h2, if_neg h, if_neg (by omega)]

/-- The loader's contents are canonical and inside the memory. -/
theorem wf_ofCells (size : Nat) (cells : List Host.Cell) : (ofCells size cells).wf = true := by
  induction cells with
  | nil => rfl
  | cons c cells ih =>
    obtain ⟨a, b⟩ := c
    unfold ofCells
    split
    · exact wf_writeByte a b ih
    · exact ih

theorem within_ofCells (size : Nat) (cells : List Host.Cell) : (ofCells size cells).within size = true := by
  induction cells with
  | nil => rfl
  | cons c cells ih =>
    obtain ⟨a, b⟩ := c
    unfold ofCells
    split
    · exact within_writeByte a b ih ‹_›
    · exact ih

end Sys2Proof.Machine.Memory

namespace Sys2Proof.Machine

/-- A concatenation as a number. -/
theorem toNat_append_eq_add {m n : Nat} (x : BitVec m) (y : BitVec n) : (x ++ y).toNat = x.toNat * 2 ^ n + y.toNat := by
  rw [BitVec.toNat_append, ← Nat.shiftLeft_add_eq_or_of_lt y.isLt, Nat.shiftLeft_eq]

/-- Byte `k` of a value, lowest first (R54). -/
theorem Width.toNat_getD_bytesOf (w : Width) (v : Word) (k : Nat) (hk : k < w.bytes) (d : Byte) :
    ((w.bytesOf v).getD k d).toNat = v.toNat / 256 ^ k % 256 := by
  cases w <;> simp only [Width.bytes] at hk <;> interval_cases k <;>
    simp [Width.bytesOf, Nat.shiftRight_eq_div_pow]

@[simp] theorem Width.length_bytesOf (w : Width) (v : Word) : (w.bytesOf v).length = w.bytes := by
  cases w <;> rfl

theorem State.inRange_iff (s : State) (a : Word) (w : Width) :
    s.inRange a w = true ↔ a.toNat + w.bytes ≤ s.cfg.msize := by
  simp [State.inRange]

theorem State.inRange_false_iff (s : State) (a : Word) (w : Width) :
    s.inRange a w = false ↔ s.cfg.msize < a.toNat + w.bytes := by
  simp [State.inRange]

/-- Every byte of memory after a store, in range or not (R56). -/
theorem State.readByte_memWrite (s : State) (a : Word) (w : Width) (v : Word) (b : Nat) (hm : s.mem.wf = true) :
    (s.memWrite a w v).mem.readByte b =
      if s.inRange a w = true ∧ a.toNat ≤ b ∧ b < a.toNat + w.bytes then
        (w.bytesOf v).getD (b - a.toNat) Memory.unlisted
      else s.mem.readByte b := by
  rw [State.memWrite_mem]
  by_cases h : s.inRange a w = true
  · rw [if_pos h, Memory.readByte_writeBytes _ _ _ hm, Width.length_bytesOf]
    simp [h]
  · rw [if_neg h, if_neg (fun hh => h hh.1)]

/-- A store keeps the memory canonical. -/
theorem State.wf_memWrite (s : State) (a : Word) (w : Width) (v : Word) (hm : s.mem.wf = true) :
    (s.memWrite a w v).mem.wf = true := by
  rw [State.memWrite_mem]
  split
  · exact Memory.wf_writeBytes _ _ hm
  · exact hm

/-- A store lists no byte at or above `MSIZE`. -/
theorem State.within_memWrite (s : State) (a : Word) (w : Width) (v : Word)
    (hm : s.mem.within s.cfg.msize = true) : (s.memWrite a w v).mem.within s.cfg.msize = true := by
  rw [State.memWrite_mem]
  split
  · rename_i h
    exact Memory.within_writeBytes _ _ hm (by rw [Width.length_bytesOf]; exact (s.inRange_iff a w).1 h)
  · exact hm

/-- The canonical form holds at reset. -/
theorem State.reset_mem_wf : State.reset.mem.wf = true := rfl

end Sys2Proof.Machine
end

