-- ==== Sys2Proof/Laws/Registers.lean ====
section
/-! SUPPORT. The laws of the register file (spec R9, R21, R22): a read after a write, and reads that an update of other
fields leaves alone. -/

namespace Sys2Proof.Machine.State

theorem isZeroReg_iff (s : State) (r : RegIdx) :
    s.isZeroReg r = true ↔ s.cfg.reg0Hardwired = true ∧ r = 0#5 := by
  simp [isZeroReg]

/-- The hardwired register reads 0 (R22). -/
theorem readReg_zero (s : State) (h : s.cfg.reg0Hardwired = true) : s.readReg 0#5 = 0#32 := by
  rw [readReg, if_pos ((s.isZeroReg_iff _).2 ⟨h, rfl⟩)]

theorem readReg_stored (s : State) (r : RegIdx) (h : ¬s.isZeroReg r = true) :
    s.readReg r = s.regs[r.toNat]'r.isLt := if_neg h

/-- Registers read alike in states with the same parameters and stored registers. -/
theorem readReg_congr {s t : State} (hc : t.cfg = s.cfg) (hr : t.regs = s.regs) (r : RegIdx) :
    t.readReg r = s.readReg r := by
  cases s
  cases t
  cases hc
  cases hr
  rfl

/-- Every register after `x[rd] <- v` (R9). -/
theorem readReg_writeReg (s : State) (rd r : RegIdx) (v : Word) :
    (s.writeReg rd v).readReg r = if r = rd ∧ ¬(s.cfg.reg0Hardwired = true ∧ rd = 0#5) then v else s.readReg r := by
  by_cases hz : s.isZeroReg rd = true
  · rw [if_neg (fun h => h.2 ((s.isZeroReg_iff rd).1 hz))]
    have hw : (s.writeReg rd v).regs = s.regs := if_pos hz
    exact readReg_congr (s := s) (t := s.writeReg rd v) rfl hw r
  · have hz' : ¬(s.cfg.reg0Hardwired = true ∧ rd = 0#5) := fun h => hz ((s.isZeroReg_iff rd).2 h)
    have hw : (s.writeReg rd v).regs = s.regs.set rd.toNat v rd.isLt := if_neg hz
    by_cases hr : r = rd
    · subst hr
      rw [if_pos ⟨rfl, hz'⟩, readReg_stored (s.writeReg r v) r hz]
      simp only [hw, Vector.getElem_set_self]
    · rw [if_neg (fun h => hr h.1)]
      by_cases h0 : s.isZeroReg r = true
      · exact (if_pos h0).trans (if_pos h0).symm
      · have h1 : (s.writeReg rd v).readReg r = (s.writeReg rd v).regs[r.toNat]'r.isLt := readReg_stored _ r h0
        rw [h1, readReg_stored s r h0]
        simp only [hw]
        exact Vector.getElem_set_ne _ _ (fun h => hr (BitVec.eq_of_toNat_eq h.symm))

theorem writesReg_writeReg (s : State) (rd : RegIdx) (v : Word) : WritesReg s (s.writeReg rd v) rd v :=
  fun r => s.readReg_writeReg rd r v

end Sys2Proof.Machine.State

namespace Sys2Proof.Machine

theorem keepsRegs_of_eq {s t : State} (hc : t.cfg = s.cfg) (hr : t.regs = s.regs) : KeepsRegs s t :=
  State.readReg_congr hc hr

theorem keepsMem_of_eq {s t : State} (h : t.mem = s.mem) : KeepsMem s t := fun a => by rw [h]

/-- A write to the hardwired register writes nothing (R22). -/
theorem WritesReg.keepsRegs_zero {s t : State} {v : Word} (h : WritesReg s t 0#5 v)
    (hz : s.cfg.reg0Hardwired = true) : KeepsRegs s t := fun r => by
  rw [h r, if_neg fun hr => hr.2 ⟨hz, rfl⟩]

/-- Writing a register's own value changes no register. -/
theorem WritesReg.keepsRegs_self {s t : State} {rd : RegIdx} (h : WritesReg s t rd (s.readReg rd)) :
    KeepsRegs s t := fun r => by
  rw [h r]
  split
  · rename_i hr
    rw [hr.1]
  · rfl

/-- A register write seen through later updates of other fields. -/
theorem writesReg_of_eq {s t : State} {rd : RegIdx} {v : Word} (hc : t.cfg = s.cfg)
    (hr : t.regs = (s.writeReg rd v).regs) : WritesReg s t rd v := fun r => by
  rw [State.readReg_congr (s := s.writeReg rd v) hc hr r, State.readReg_writeReg]

end Sys2Proof.Machine
end

