-- ==== Sys2Proof/Laws/Ops.lean ====
section
/-! SUPPORT. One lemma per shared execute operation that says everything it does: the register written, the bytes
written, where PC goes, the result, and that the rest stays (spec R127 to R134). -/

namespace Sys2Proof.Machine.State

variable (s : State)

/-- R130 for a register write. -/
theorem writeAndCommit_effect (rd : RegIdx) (v : Word) : WritesOnlyRd s (s.writeAndCommit rd v) rd v .continued :=
  ⟨writesReg_of_eq rfl rfl, fun _ => rfl, ⟨rfl, rfl, rfl, rfl⟩, ⟨rfl, rfl⟩, rfl, rfl, rfl⟩

/-- R230. -/
theorem aluImm_effect (op : AluOp) (rd rs1 : RegIdx) (b : Word) :
    WritesOnlyRd s (s.aluImm op rd rs1 b) rd (alu op (s.readReg rs1) b) .continued :=
  s.writeAndCommit_effect rd _

/-- R260. -/
theorem aluReg_effect (op : AluOp) (rd rs1 rs2 : RegIdx) :
    WritesOnlyRd s (s.aluReg op rd rs1 rs2) rd (alu op (s.readReg rs1) (s.readReg rs2)) .continued :=
  s.writeAndCommit_effect rd _

/-- R200, R133. -/
theorem load_effect (rd : RegIdx) (ea : Word) (w : Width) (widen : Word → Word) :
    WritesOnlyRd s (s.load rd ea w widen) rd (widen (s.memRead ea w)) (s.accessResult ea w) :=
  ⟨writesReg_of_eq rfl rfl, fun _ => rfl, ⟨rfl, rfl, rfl, rfl⟩, ⟨rfl, rfl⟩, rfl, rfl, rfl⟩

/-- R206, R133: a store's memory is that of `memWrite`; nothing else changes but the PC's advance. -/
theorem store_effect (ea : Word) (w : Width) (v : Word) :
    (s.store ea w v).mem = (s.memWrite ea w v).mem ∧ KeepsRegs s (s.store ea w v) ∧
      KeepsControl s (s.store ea w v) ∧ KeepsCsr s (s.store ea w v) ∧
      FallsThrough s (s.store ea w v) (s.accessResult ea w) :=
  ⟨rfl, keepsRegs_of_eq rfl rfl, ⟨rfl, rfl, rfl, rfl⟩, ⟨rfl, rfl⟩, rfl, rfl, rfl⟩

/-- R170, R171. -/
theorem jumpAndLink_effect (rd : RegIdx) (target : Word) :
    WritesReg s (s.jumpAndLink rd target) rd (s.pc + 4#32) ∧ JumpsTo s (s.jumpAndLink rd target) target :=
  ⟨writesReg_of_eq rfl rfl, rfl, rfl, rfl, fun _ => rfl, ⟨rfl, rfl, rfl, rfl⟩, rfl, rfl⟩

/-- R172. -/
theorem branch_effect (c : BranchCond) (rs1 rs2 : RegIdx) (imm : Word) :
    KeepsRegs s (s.branch c rs1 rs2 imm) ∧
      JumpsTo s (s.branch c rs1 rs2 imm)
        (if c.holds (s.readReg rs1) (s.readReg rs2) then s.pc + imm else s.nextPc) :=
  ⟨keepsRegs_of_eq rfl rfl, rfl, rfl, rfl, fun _ => rfl, ⟨rfl, rfl, rfl, rfl⟩, rfl, rfl⟩

/-- R130 for an instruction with no effect of its own, and R134 for a trap. -/
theorem commit_effect (r : StepResult) : OnlyAdvances s (s.commit r) r :=
  ⟨keepsRegs_of_eq rfl rfl, fun _ => rfl, ⟨rfl, rfl, rfl, rfl⟩, ⟨rfl, rfl⟩, rfl, rfl, rfl⟩

theorem takeTrap_effect (k : TrapKind) : OnlyAdvances s (s.takeTrap k) (.trapped k) :=
  s.commit_effect (.trapped k)

/-- R295. -/
theorem csrAccess_effect (op : CsrOp) (csr : BitVec 12) (rd : RegIdx) (src : Word) :
    WritesReg s (s.csrAccess op csr rd src) rd (Config.csrRdata s.csrDraws) ∧
      (s.csrAccess op csr rd src).hook = some { op := op, csr := csr, rd := rd, src := src } ∧
      (s.csrAccess op csr rd src).csrDraws = s.csrDraws + 1 ∧
      KeepsMem s (s.csrAccess op csr rd src) ∧ KeepsControl s (s.csrAccess op csr rd src) ∧
      FallsThrough s (s.csrAccess op csr rd src) .continued :=
  ⟨writesReg_of_eq rfl rfl, rfl, rfl, fun _ => rfl, ⟨rfl, rfl, rfl, rfl⟩, rfl, rfl, rfl⟩

/-- R131, R132: a disposed step changes neither registers nor memory. -/
theorem dispose_keeps (k : ErrorKind) : KeepsRegs s (s.dispose k) ∧ KeepsMem s (s.dispose k) :=
  ⟨keepsRegs_of_eq rfl rfl, fun _ => rfl⟩

/-- Fetch and decode leave the registers, the memory, PC, `run` and the parameters alone (R124). -/
theorem stage_keeps : KeepsRegs s s.fetch.stage ∧ KeepsMem s s.fetch.stage :=
  ⟨keepsRegs_of_eq rfl rfl, fun _ => rfl⟩

end Sys2Proof.Machine.State

namespace Sys2Proof.Machine

/-! What the shifts compute, as numbers (R240, R260). -/

/-- `b & 0x1F`. -/
theorem shiftAmount_eq_mod (b : Word) : shiftAmount b = b.toNat % 32 := by
  simp only [shiftAmount, BitVec.toNat_and]
  exact Nat.and_two_pow_sub_one_eq_mod b.toNat 5

theorem shiftLeft_eq_mul (a : Word) (n : Nat) : a <<< n = BitVec.ofNat 32 (a.toNat * 2 ^ n) := by
  apply BitVec.eq_of_toNat_eq
  simp [Nat.shiftLeft_eq]

theorem shiftRight_eq_div (a : Word) (n : Nat) : a >>> n = BitVec.ofNat 32 (a.toNat / 2 ^ n) := by
  apply BitVec.eq_of_toNat_eq
  simp only [BitVec.toNat_ushiftRight, BitVec.toNat_ofNat, Nat.shiftRight_eq_div_pow]
  exact (Nat.mod_eq_of_lt (Nat.lt_of_le_of_lt (Nat.div_le_self _ _) a.isLt)).symm

theorem sshiftRight_eq_div (a : Word) (n : Nat) : a.sshiftRight n = BitVec.ofInt 32 (a.toInt / 2 ^ n) := by
  rw [BitVec.sshiftRight, Int.shiftRight_eq_div_pow]
  norm_cast

end Sys2Proof.Machine
end

