-- ==== Sys2Proof/Laws/PerInstr.lean ====
section
/-! SUPPORT. The per-instruction families of LAWS.json. EncodedOpcode: the opcode of an instruction's word is the opcode
of its group (spec R92), one lemma per constructor. -/

/-- The opcode of the instruction's group (R92). -/
def Sys2Proof.Laws.groupOpcode : Sys2Proof.Instr → BitVec 7
  | .lui _ _ => 0x37#7
  | .auipc _ _ => 0x17#7
  | .jal _ _ => 0x6F#7
  | .jalr _ _ _ => 0x67#7
  | .beq _ _ _ => 0x63#7
  | .bne _ _ _ => 0x63#7
  | .blt _ _ _ => 0x63#7
  | .bge _ _ _ => 0x63#7
  | .bltu _ _ _ => 0x63#7
  | .bgeu _ _ _ => 0x63#7
  | .lb _ _ _ => 0x03#7
  | .lh _ _ _ => 0x03#7
  | .lw _ _ _ => 0x03#7
  | .lbu _ _ _ => 0x03#7
  | .lhu _ _ _ => 0x03#7
  | .sb _ _ _ => 0x23#7
  | .sh _ _ _ => 0x23#7
  | .sw _ _ _ => 0x23#7
  | .addi _ _ _ => 0x13#7
  | .slti _ _ _ => 0x13#7
  | .sltiu _ _ _ => 0x13#7
  | .xori _ _ _ => 0x13#7
  | .ori _ _ _ => 0x13#7
  | .andi _ _ _ => 0x13#7
  | .slli _ _ _ => 0x13#7
  | .srli _ _ _ => 0x13#7
  | .srai _ _ _ => 0x13#7
  | .add _ _ _ => 0x33#7
  | .sub _ _ _ => 0x33#7
  | .sll _ _ _ => 0x33#7
  | .slt _ _ _ => 0x33#7
  | .sltu _ _ _ => 0x33#7
  | .xor _ _ _ => 0x33#7
  | .srl _ _ _ => 0x33#7
  | .sra _ _ _ => 0x33#7
  | .or _ _ _ => 0x33#7
  | .and _ _ _ => 0x33#7
  | .fence _ _ _ => 0x0F#7
  | .fenceI _ _ _ => 0x0F#7
  | .ecall => 0x73#7
  | .ebreak => 0x73#7
  | .csrrw _ _ _ => 0x73#7
  | .csrrs _ _ _ => 0x73#7
  | .csrrc _ _ _ => 0x73#7
  | .csrrwi _ _ _ => 0x73#7
  | .csrrsi _ _ _ => 0x73#7
  | .csrrci _ _ _ => 0x73#7

def Sys2Proof.Laws.EncodedOpcode.Statement (i : Sys2Proof.Instr) : Prop :=
  Sys2Proof.opcodeOf (Sys2Proof.encode i) = Sys2Proof.Laws.groupOpcode i

open Sys2Proof

theorem Sys2Proof.Laws.EncodedOpcode.lui (rd : RegIdx) (immU : Word) :
    Sys2Proof.Laws.EncodedOpcode.Statement (.lui rd immU) := opcodeOf_encodeU ..

theorem Sys2Proof.Laws.EncodedOpcode.auipc (rd : RegIdx) (immU : Word) :
    Sys2Proof.Laws.EncodedOpcode.Statement (.auipc rd immU) := opcodeOf_encodeU ..

theorem Sys2Proof.Laws.EncodedOpcode.jal (rd : RegIdx) (immJ : Word) :
    Sys2Proof.Laws.EncodedOpcode.Statement (.jal rd immJ) := opcodeOf_encodeJ ..

theorem Sys2Proof.Laws.EncodedOpcode.jalr (rd rs1 : RegIdx) (immI : Word) :
    Sys2Proof.Laws.EncodedOpcode.Statement (.jalr rd rs1 immI) := opcodeOf_encodeRawI ..

theorem Sys2Proof.Laws.EncodedOpcode.beq (rs1 rs2 : RegIdx) (immB : Word) :
    Sys2Proof.Laws.EncodedOpcode.Statement (.beq rs1 rs2 immB) := opcodeOf_encodeB ..

theorem Sys2Proof.Laws.EncodedOpcode.bne (rs1 rs2 : RegIdx) (immB : Word) :
    Sys2Proof.Laws.EncodedOpcode.Statement (.bne rs1 rs2 immB) := opcodeOf_encodeB ..

theorem Sys2Proof.Laws.EncodedOpcode.blt (rs1 rs2 : RegIdx) (immB : Word) :
    Sys2Proof.Laws.EncodedOpcode.Statement (.blt rs1 rs2 immB) := opcodeOf_encodeB ..

theorem Sys2Proof.Laws.EncodedOpcode.bge (rs1 rs2 : RegIdx) (immB : Word) :
    Sys2Proof.Laws.EncodedOpcode.Statement (.bge rs1 rs2 immB) := opcodeOf_encodeB ..

theorem Sys2Proof.Laws.EncodedOpcode.bltu (rs1 rs2 : RegIdx) (immB : Word) :
    Sys2Proof.Laws.EncodedOpcode.Statement (.bltu rs1 rs2 immB) := opcodeOf_encodeB ..

theorem Sys2Proof.Laws.EncodedOpcode.bgeu (rs1 rs2 : RegIdx) (immB : Word) :
    Sys2Proof.Laws.EncodedOpcode.Statement (.bgeu rs1 rs2 immB) := opcodeOf_encodeB ..

theorem Sys2Proof.Laws.EncodedOpcode.lb (rd rs1 : RegIdx) (immI : Word) :
    Sys2Proof.Laws.EncodedOpcode.Statement (.lb rd rs1 immI) := opcodeOf_encodeRawI ..

theorem Sys2Proof.Laws.EncodedOpcode.lh (rd rs1 : RegIdx) (immI : Word) :
    Sys2Proof.Laws.EncodedOpcode.Statement (.lh rd rs1 immI) := opcodeOf_encodeRawI ..

theorem Sys2Proof.Laws.EncodedOpcode.lw (rd rs1 : RegIdx) (immI : Word) :
    Sys2Proof.Laws.EncodedOpcode.Statement (.lw rd rs1 immI) := opcodeOf_encodeRawI ..

theorem Sys2Proof.Laws.EncodedOpcode.lbu (rd rs1 : RegIdx) (immI : Word) :
    Sys2Proof.Laws.EncodedOpcode.Statement (.lbu rd rs1 immI) := opcodeOf_encodeRawI ..

theorem Sys2Proof.Laws.EncodedOpcode.lhu (rd rs1 : RegIdx) (immI : Word) :
    Sys2Proof.Laws.EncodedOpcode.Statement (.lhu rd rs1 immI) := opcodeOf_encodeRawI ..

theorem Sys2Proof.Laws.EncodedOpcode.sb (rs1 rs2 : RegIdx) (immS : Word) :
    Sys2Proof.Laws.EncodedOpcode.Statement (.sb rs1 rs2 immS) := opcodeOf_encodeS ..

theorem Sys2Proof.Laws.EncodedOpcode.sh (rs1 rs2 : RegIdx) (immS : Word) :
    Sys2Proof.Laws.EncodedOpcode.Statement (.sh rs1 rs2 immS) := opcodeOf_encodeS ..

theorem Sys2Proof.Laws.EncodedOpcode.sw (rs1 rs2 : RegIdx) (immS : Word) :
    Sys2Proof.Laws.EncodedOpcode.Statement (.sw rs1 rs2 immS) := opcodeOf_encodeS ..

theorem Sys2Proof.Laws.EncodedOpcode.addi (rd rs1 : RegIdx) (immI : Word) :
    Sys2Proof.Laws.EncodedOpcode.Statement (.addi rd rs1 immI) := opcodeOf_encodeRawI ..

theorem Sys2Proof.Laws.EncodedOpcode.slti (rd rs1 : RegIdx) (immI : Word) :
    Sys2Proof.Laws.EncodedOpcode.Statement (.slti rd rs1 immI) := opcodeOf_encodeRawI ..

theorem Sys2Proof.Laws.EncodedOpcode.sltiu (rd rs1 : RegIdx) (immI : Word) :
    Sys2Proof.Laws.EncodedOpcode.Statement (.sltiu rd rs1 immI) := opcodeOf_encodeRawI ..

theorem Sys2Proof.Laws.EncodedOpcode.xori (rd rs1 : RegIdx) (immI : Word) :
    Sys2Proof.Laws.EncodedOpcode.Statement (.xori rd rs1 immI) := opcodeOf_encodeRawI ..

theorem Sys2Proof.Laws.EncodedOpcode.ori (rd rs1 : RegIdx) (immI : Word) :
    Sys2Proof.Laws.EncodedOpcode.Statement (.ori rd rs1 immI) := opcodeOf_encodeRawI ..

theorem Sys2Proof.Laws.EncodedOpcode.andi (rd rs1 : RegIdx) (immI : Word) :
    Sys2Proof.Laws.EncodedOpcode.Statement (.andi rd rs1 immI) := opcodeOf_encodeRawI ..

theorem Sys2Proof.Laws.EncodedOpcode.slli (rd rs1 : RegIdx) (shamt : BitVec 5) :
    Sys2Proof.Laws.EncodedOpcode.Statement (.slli rd rs1 shamt) := opcodeOf_encodeR ..

theorem Sys2Proof.Laws.EncodedOpcode.srli (rd rs1 : RegIdx) (shamt : BitVec 5) :
    Sys2Proof.Laws.EncodedOpcode.Statement (.srli rd rs1 shamt) := opcodeOf_encodeR ..

theorem Sys2Proof.Laws.EncodedOpcode.srai (rd rs1 : RegIdx) (shamt : BitVec 5) :
    Sys2Proof.Laws.EncodedOpcode.Statement (.srai rd rs1 shamt) := opcodeOf_encodeR ..

theorem Sys2Proof.Laws.EncodedOpcode.add (rd rs1 rs2 : RegIdx) :
    Sys2Proof.Laws.EncodedOpcode.Statement (.add rd rs1 rs2) := opcodeOf_encodeR ..

theorem Sys2Proof.Laws.EncodedOpcode.sub (rd rs1 rs2 : RegIdx) :
    Sys2Proof.Laws.EncodedOpcode.Statement (.sub rd rs1 rs2) := opcodeOf_encodeR ..

theorem Sys2Proof.Laws.EncodedOpcode.sll (rd rs1 rs2 : RegIdx) :
    Sys2Proof.Laws.EncodedOpcode.Statement (.sll rd rs1 rs2) := opcodeOf_encodeR ..

theorem Sys2Proof.Laws.EncodedOpcode.slt (rd rs1 rs2 : RegIdx) :
    Sys2Proof.Laws.EncodedOpcode.Statement (.slt rd rs1 rs2) := opcodeOf_encodeR ..

theorem Sys2Proof.Laws.EncodedOpcode.sltu (rd rs1 rs2 : RegIdx) :
    Sys2Proof.Laws.EncodedOpcode.Statement (.sltu rd rs1 rs2) := opcodeOf_encodeR ..

theorem Sys2Proof.Laws.EncodedOpcode.xor (rd rs1 rs2 : RegIdx) :
    Sys2Proof.Laws.EncodedOpcode.Statement (.xor rd rs1 rs2) := opcodeOf_encodeR ..

theorem Sys2Proof.Laws.EncodedOpcode.srl (rd rs1 rs2 : RegIdx) :
    Sys2Proof.Laws.EncodedOpcode.Statement (.srl rd rs1 rs2) := opcodeOf_encodeR ..

theorem Sys2Proof.Laws.EncodedOpcode.sra (rd rs1 rs2 : RegIdx) :
    Sys2Proof.Laws.EncodedOpcode.Statement (.sra rd rs1 rs2) := opcodeOf_encodeR ..

theorem Sys2Proof.Laws.EncodedOpcode.or (rd rs1 rs2 : RegIdx) :
    Sys2Proof.Laws.EncodedOpcode.Statement (.or rd rs1 rs2) := opcodeOf_encodeR ..

theorem Sys2Proof.Laws.EncodedOpcode.and (rd rs1 rs2 : RegIdx) :
    Sys2Proof.Laws.EncodedOpcode.Statement (.and rd rs1 rs2) := opcodeOf_encodeR ..

theorem Sys2Proof.Laws.EncodedOpcode.fence (rd rs1 : RegIdx) (fields : BitVec 12) :
    Sys2Proof.Laws.EncodedOpcode.Statement (.fence rd rs1 fields) := opcodeOf_encodeRawI ..

theorem Sys2Proof.Laws.EncodedOpcode.fenceI (rd rs1 : RegIdx) (fields : BitVec 12) :
    Sys2Proof.Laws.EncodedOpcode.Statement (.fenceI rd rs1 fields) := opcodeOf_encodeRawI ..

theorem Sys2Proof.Laws.EncodedOpcode.ecall :
    Sys2Proof.Laws.EncodedOpcode.Statement .ecall := rfl

theorem Sys2Proof.Laws.EncodedOpcode.ebreak :
    Sys2Proof.Laws.EncodedOpcode.Statement .ebreak := rfl

theorem Sys2Proof.Laws.EncodedOpcode.csrrw (rd : RegIdx) (csr : BitVec 12) (rs1 : RegIdx) :
    Sys2Proof.Laws.EncodedOpcode.Statement (.csrrw rd csr rs1) := opcodeOf_encodeRawI ..

theorem Sys2Proof.Laws.EncodedOpcode.csrrs (rd : RegIdx) (csr : BitVec 12) (rs1 : RegIdx) :
    Sys2Proof.Laws.EncodedOpcode.Statement (.csrrs rd csr rs1) := opcodeOf_encodeRawI ..

theorem Sys2Proof.Laws.EncodedOpcode.csrrc (rd : RegIdx) (csr : BitVec 12) (rs1 : RegIdx) :
    Sys2Proof.Laws.EncodedOpcode.Statement (.csrrc rd csr rs1) := opcodeOf_encodeRawI ..

theorem Sys2Proof.Laws.EncodedOpcode.csrrwi (rd : RegIdx) (csr : BitVec 12) (zimm : Word) :
    Sys2Proof.Laws.EncodedOpcode.Statement (.csrrwi rd csr zimm) := opcodeOf_encodeRawI ..

theorem Sys2Proof.Laws.EncodedOpcode.csrrsi (rd : RegIdx) (csr : BitVec 12) (zimm : Word) :
    Sys2Proof.Laws.EncodedOpcode.Statement (.csrrsi rd csr zimm) := opcodeOf_encodeRawI ..

theorem Sys2Proof.Laws.EncodedOpcode.csrrci (rd : RegIdx) (csr : BitVec 12) (zimm : Word) :
    Sys2Proof.Laws.EncodedOpcode.Statement (.csrrci rd csr zimm) := opcodeOf_encodeRawI ..
end

