-- ==== Sys2Proof/Laws/Step.lean ====
section
/-! SUPPORT. What one execution and one step can do, said once: every claim about all instructions is a case analysis of
`exec_effect` and `step_cases` (spec R124, R128, R130 to R135). -/

namespace Sys2Proof.Machine

/-- What `exec` can write (R128): one register, or the bytes of one store, or neither. -/
inductive Writes (i : Instr) (s t : State) : Prop where
  | register (rd : RegIdx) (v : Word) : t.regs = (s.writeReg rd v).regs → t.mem = s.mem → Writes i s t
  | bytes (rs1 rs2 : RegIdx) (imm : Word) (w : Width) :
      (i = .sb rs1 rs2 imm ∧ w = .byte) ∨ (i = .sh rs1 rs2 imm ∧ w = .half) ∨ (i = .sw rs1 rs2 imm ∧ w = .word) →
      t.regs = s.regs → t.mem = (s.memWrite (s.readReg rs1 + imm) w (s.readReg rs2)).mem → Writes i s t
  | nothing : t.regs = s.regs → t.mem = s.mem → Writes i s t

/-- Every instruction executes to a next state: the parameters, `run`, IR and the decoded instruction stay, PC takes
NextPC, a result is left, and at most one register or one store's bytes are written. -/
theorem exec_effect (i : Instr) (s : State) :
    ∃ t, exec i s = .next t ∧ KeepsControl s t ∧ t.pc = t.nextPc ∧ (∃ r, t.result = some r) ∧ Writes i s t := by
  cases i
  case sb rs1 rs2 imm =>
    exact ⟨_, rfl, ⟨rfl, rfl, rfl, rfl⟩, rfl, ⟨_, rfl⟩, .bytes rs1 rs2 imm .byte (.inl ⟨rfl, rfl⟩) rfl rfl⟩
  case sh rs1 rs2 imm =>
    exact ⟨_, rfl, ⟨rfl, rfl, rfl, rfl⟩, rfl, ⟨_, rfl⟩, .bytes rs1 rs2 imm .half (.inr (.inl ⟨rfl, rfl⟩)) rfl rfl⟩
  case sw rs1 rs2 imm =>
    exact ⟨_, rfl, ⟨rfl, rfl, rfl, rfl⟩, rfl, ⟨_, rfl⟩, .bytes rs1 rs2 imm .word (.inr (.inr ⟨rfl, rfl⟩)) rfl rfl⟩
  all_goals first
    | exact ⟨_, rfl, ⟨rfl, rfl, rfl, rfl⟩, rfl, ⟨_, rfl⟩, .nothing rfl rfl⟩
    | exact ⟨_, rfl, ⟨rfl, rfl, rfl, rfl⟩, rfl, ⟨_, rfl⟩, .register _ _ rfl rfl⟩

/-- The three ways a step answers a next state (R124, R131, R132). -/
inductive StepCase (s t : State) : Prop where
  /-- R132. -/
  | fetchOutOfRange : s.inRange s.pc .word = false → t = s.fetch.dispose .addressOutOfRange → StepCase s t
  /-- R131. -/
  | rejected (e : DecodeError) : s.inRange s.pc .word = true → decode s.nextWord = .error e →
      t = s.fetch.stage.dispose (kindOfDecodeError e) → StepCase s t
  /-- R130. -/
  | executed (i : Instr) : s.AboutToRun i → exec i s.fetch.stage = .next t → StepCase s t

/-- The step of a Running block whose word decodes is the execution of it (R124). -/
theorem step_of_aboutToRun {s : State} {i : Instr} (h : s.AboutToRun i) : step s = exec i s.fetch.stage := by
  obtain ⟨hr, hp, hd⟩ := h
  have hd' : dispatch s.fetch.stage.decoded s.fetch.stage.ir = .ok i := hd
  simp only [step, hr, cycle, hp, if_true, hd']

/-- The step of a Running block whose word does not decode (R131). -/
theorem step_of_rejected {s : State} {e : DecodeError} (hr : s.run = .running) (hp : s.inRange s.pc .word = true)
    (hd : decode s.nextWord = .error e) : step s = .next (s.fetch.stage.dispose (kindOfDecodeError e)) := by
  have hd' : dispatch s.fetch.stage.decoded s.fetch.stage.ir = .error e := hd
  simp only [step, hr, cycle, hp, if_true, hd']

/-- The step of a Running block whose fetch is out of range (R132). -/
theorem step_of_fetchOutOfRange {s : State} (hr : s.run = .running) (hp : s.inRange s.pc .word = false) :
    step s = .next (s.fetch.dispose .addressOutOfRange) := by
  simp [step, hr, cycle, hp]

/-- A step that answers a next state was taken in Running, in one of three ways. -/
theorem step_cases {s t : State} (h : step s = .next t) : s.run = .running ∧ StepCase s t := by
  cases hr : s.run with
  | halted => simp [step, hr] at h
  | running =>
    refine ⟨rfl, ?_⟩
    cases hp : s.inRange s.pc .word with
    | false =>
      rw [step_of_fetchOutOfRange hr hp] at h
      exact .fetchOutOfRange hp (Host.Outcome.next.inj h).symm
    | true =>
      cases hd : decode s.nextWord with
      | error e =>
        rw [step_of_rejected hr hp hd] at h
        exact .rejected e hp hd (Host.Outcome.next.inj h).symm
      | ok i =>
        have ha : s.AboutToRun i := ⟨hr, hp, hd⟩
        rw [step_of_aboutToRun ha] at h
        exact .executed i ha h

/-- Every step leaves a result (R122, R139). -/
theorem hasStepped_of_step {s t : State} (h : step s = .next t) : t.hasStepped = true := by
  obtain ⟨-, hc⟩ := step_cases h
  cases hc with
  | fetchOutOfRange _ ht => subst ht; rfl
  | rejected _ _ _ ht => subst ht; rfl
  | executed i _ he =>
    obtain ⟨t', ht', -, -, ⟨r, hr⟩, -⟩ := exec_effect i s.fetch.stage
    cases he.symm.trans ht'
    simp [State.hasStepped, hr]

/-- No host action takes a block back to before its first step (R121). -/
theorem hasStepped_of_act {s t : State} {a : HostAction} (hs : s.hasStepped = true) (h : act s a = .next t) :
    t.hasStepped = true := by
  cases a with
  | step => exact hasStepped_of_step h
  | stop => cases h; exact hs
  | load a b => simp [act, loadByte, hs] at h

/-- What a whole step can write: the frame of `Writes`, at the state before the step. -/
theorem Writes.of_stage {i : Instr} {s t : State} (h : Writes i s.fetch.stage t) : Writes i s t := by
  cases h with
  | register rd v hr hm => exact .register rd v hr hm
  | bytes rs1 rs2 imm w hi hr hm => exact .bytes rs1 rs2 imm w hi hr hm
  | nothing hr hm => exact .nothing hr hm

end Sys2Proof.Machine
end

