-- ==== Sys2Proof/Tests/Slice0.lean ====
section
/-! SUPPORT. Tests: ill-formed terms are refused, every constructor's word decodes, one step of every instruction, and a
witness for every obligation that has hypotheses. Words are written from the format table of spec R82 and the keys of
R93; expected values are those of spec/95_test_vectors.md or worked out by hand from the rule named. -/

namespace Sys2Proof.Tests

open Sys2Proof.Machine

/-! ## Ill-formed terms are refused (R83 to R87, R89) -/

theorem test_wf_refuses_signed12_above : fitsSigned12 2048#32 = false := by decide
theorem test_wf_refuses_signed12_below : fitsSigned12 (-2049#32) = false := by decide
theorem test_wf_refuses_odd_branch : fitsBranch 3#32 = false := by decide
theorem test_wf_refuses_far_branch : fitsBranch 4096#32 = false := by decide
theorem test_wf_refuses_low_upper : fitsUpper 0x12345001#32 = false := by decide
theorem test_wf_refuses_odd_jump : fitsJump 1#32 = false := by decide
theorem test_wf_refuses_far_jump : fitsJump 0x00100000#32 = false := by decide
theorem test_wf_refuses_zimm : fitsZimm 32#32 = false := by decide
theorem test_wf_refuses_instructions :
    [Instr.lui 1 1#32, .auipc 1 0x800#32, .jal 1 1#32, .jalr 1 2 2048#32, .beq 1 2 1#32, .lb 1 2 2048#32,
      .sw 1 2 (-2049#32), .addi 1 2 4096#32, .csrrwi 1 0#12 32#32].all (fun i => !i.wf) = true := by decide
theorem test_wf_accepts_extremes :
    [Instr.lui 1 0xFFFFF000#32, .jal 1 0x000FFFFE#32, .jal 1 (-1048576#32), .beq 1 2 4094#32, .beq 1 2 (-4096#32),
      .addi 1 2 2047#32, .addi 1 2 (-2048#32), .csrrsi 1 0xFFF#12 31#32].all Instr.wf = true := by decide

/-! ## Every constructor's word, bit by bit (R82, R93) -/

theorem test_decode_lui : decode 0b00010010001101000101_00101_0110111#32 = .ok (.lui 5#5 0x12345000#32) := by decide
theorem test_decode_auipc : decode 0b11111111111111111111_00011_0010111#32 = .ok (.auipc 3#5 0xFFFFF000#32) := by decide
theorem test_decode_jal : decode 0b00000000001100010010_00001_1101111#32 = .ok (.jal 1#5 0x12802#32) := by decide
theorem test_decode_jalr : decode 0b111111111111_00010_000_00001_1100111#32 = .ok (.jalr 1#5 2#5 (-1#32)) := by decide
theorem test_decode_beq : decode 0b0111111_00010_00001_000_11111_1100011#32 = .ok (.beq 1#5 2#5 4094#32) := by decide
theorem test_decode_bne : decode 0b1111111_00010_00001_001_11001_1100011#32 = .ok (.bne 1#5 2#5 (-8#32)) := by decide
theorem test_decode_blt : decode 0b0000000_00010_00001_100_01100_1100011#32 = .ok (.blt 1#5 2#5 12#32) := by decide
theorem test_decode_bge : decode 0b1000000_00010_00001_101_00000_1100011#32 = .ok (.bge 1#5 2#5 (-4096#32)) := by decide
theorem test_decode_bltu : decode 0b0000000_00010_00001_110_00001_1100011#32 = .ok (.bltu 1#5 2#5 2048#32) := by decide
theorem test_decode_bgeu : decode 0b1111111_00010_00001_111_11111_1100011#32 = .ok (.bgeu 1#5 2#5 (-2#32)) := by decide
theorem test_decode_lb : decode 0b000000000001_00001_000_00010_0000011#32 = .ok (.lb 2#5 1#5 1#32) := by decide
theorem test_decode_lh : decode 0b111111111110_00001_001_00010_0000011#32 = .ok (.lh 2#5 1#5 (-2#32)) := by decide
theorem test_decode_lw : decode 0b011111111111_00001_010_00010_0000011#32 = .ok (.lw 2#5 1#5 2047#32) := by decide
theorem test_decode_lbu : decode 0b100000000000_00001_100_00010_0000011#32 = .ok (.lbu 2#5 1#5 (-2048#32)) := by decide
theorem test_decode_lhu : decode 0b000000000110_00001_101_00010_0000011#32 = .ok (.lhu 2#5 1#5 6#32) := by decide
theorem test_decode_sb : decode 0b0000000_00010_00001_000_11111_0100011#32 = .ok (.sb 1#5 2#5 31#32) := by decide
theorem test_decode_sh : decode 0b1111111_00010_00001_001_00000_0100011#32 = .ok (.sh 1#5 2#5 (-32#32)) := by decide
theorem test_decode_sw : decode 0b1111111_00010_00001_010_11111_0100011#32 = .ok (.sw 1#5 2#5 (-1#32)) := by decide
theorem test_decode_addi : decode 0b111111111101_00001_000_00011_0010011#32 = .ok (.addi 3#5 1#5 (-3#32)) := by decide
theorem test_decode_slti : decode 0b011111111111_00001_010_00011_0010011#32 = .ok (.slti 3#5 1#5 2047#32) := by decide
theorem test_decode_sltiu : decode 0b111111111111_00001_011_00011_0010011#32 = .ok (.sltiu 3#5 1#5 (-1#32)) := by decide
theorem test_decode_xori : decode 0b100000000000_00001_100_00011_0010011#32 = .ok (.xori 3#5 1#5 (-2048#32)) := by decide
theorem test_decode_ori : decode 0b000011110000_00001_110_00011_0010011#32 = .ok (.ori 3#5 1#5 240#32) := by decide
theorem test_decode_andi : decode 0b111111110000_00001_111_00011_0010011#32 = .ok (.andi 3#5 1#5 (-16#32)) := by decide
theorem test_decode_slli : decode 0b0000000_11111_00001_001_00011_0010011#32 = .ok (.slli 3#5 1#5 31#5) := by decide
theorem test_decode_srli : decode 0b0000000_00100_00001_101_00011_0010011#32 = .ok (.srli 3#5 1#5 4#5) := by decide
theorem test_decode_srai : decode 0b0100000_00100_00001_101_00011_0010011#32 = .ok (.srai 3#5 1#5 4#5) := by decide
theorem test_decode_add : decode 0b0000000_00010_00001_000_00011_0110011#32 = .ok (.add 3#5 1#5 2#5) := by decide
theorem test_decode_sub : decode 0b0100000_00010_00001_000_00011_0110011#32 = .ok (.sub 3#5 1#5 2#5) := by decide
theorem test_decode_sll : decode 0b0000000_00010_00001_001_00011_0110011#32 = .ok (.sll 3#5 1#5 2#5) := by decide
theorem test_decode_slt : decode 0b0000000_00010_00001_010_00011_0110011#32 = .ok (.slt 3#5 1#5 2#5) := by decide
theorem test_decode_sltu : decode 0b0000000_00010_00001_011_00011_0110011#32 = .ok (.sltu 3#5 1#5 2#5) := by decide
theorem test_decode_xor : decode 0b0000000_00010_00001_100_00011_0110011#32 = .ok (.xor 3#5 1#5 2#5) := by decide
theorem test_decode_srl : decode 0b0000000_00010_00001_101_00011_0110011#32 = .ok (.srl 3#5 1#5 2#5) := by decide
theorem test_decode_sra : decode 0b0100000_00010_00001_101_00011_0110011#32 = .ok (.sra 3#5 1#5 2#5) := by decide
theorem test_decode_or : decode 0b0000000_00010_00001_110_00011_0110011#32 = .ok (.or 3#5 1#5 2#5) := by decide
theorem test_decode_and : decode 0b0000000_00010_00001_111_00011_0110011#32 = .ok (.and 3#5 1#5 2#5) := by decide
theorem test_decode_fence : decode 0b000011111111_00110_000_00101_0001111#32 = .ok (.fence 5#5 6#5 0x0FF#12) := by decide
theorem test_decode_fenceI : decode 0b000000000000_00000_001_00000_0001111#32 = .ok (.fenceI 0#5 0#5 0#12) := by decide
theorem test_decode_ecall : decode 0b000000000000_00000_000_00000_1110011#32 = .ok (.ecall) := by decide
theorem test_decode_ebreak : decode 0b000000000001_00000_000_00000_1110011#32 = .ok (.ebreak) := by decide
theorem test_decode_csrrw : decode 0b001100000000_00110_001_00101_1110011#32 = .ok (.csrrw 5#5 0x300#12 6#5) := by decide
theorem test_decode_csrrs : decode 0b001100000000_00110_010_00101_1110011#32 = .ok (.csrrs 5#5 0x300#12 6#5) := by decide
theorem test_decode_csrrc : decode 0b001100000000_00110_011_00101_1110011#32 = .ok (.csrrc 5#5 0x300#12 6#5) := by decide
theorem test_decode_csrrwi : decode 0b001100000000_00111_101_00101_1110011#32 = .ok (.csrrwi 5#5 0x300#12 7#32) := by decide
theorem test_decode_csrrsi : decode 0b001100000000_00111_110_00101_1110011#32 = .ok (.csrrsi 5#5 0x300#12 7#32) := by decide
theorem test_decode_csrrci : decode 0b001100000000_00111_111_00101_1110011#32 = .ok (.csrrci 5#5 0x300#12 7#32) := by decide

theorem test_decode_rejects :
    [0x00000000#32, 0xFFFFFFFF#32, 0x0000000B#32].map decode =
      List.replicate 3 (.error .illegalInstruction) := by decide
theorem test_decode_reserved :
    [0x000290E7#32, 0x0020A463#32, 0x0000B103#32, 0x0020B023#32, 0x40409193#32, 0x0240D193#32, 0x022081B3#32,
      0x402091B3#32, 0x4020F1B3#32, 0x0000200F#32, 0x000000F3#32, 0x30200073#32, 0x00004073#32].map decode =
      List.replicate 13 (.error .unknownSubopcode) := by decide
/-- The extreme immediates of 95_test_vectors.md part 2, in words whose own format does not use them too. -/
theorem test_decoder_fields :
    (decodeFields 0xFE209CE3#32).immI = 0xFFFFFFE2#32 ∧ (decodeFields 0xFE209CE3#32).immSz = 0xFF9#32 ∧
      (decodeFields 0xFE209CE3#32).immBz = 0x1FF8#32 ∧ (decodeFields 0xFE209CE3#32).immU = 0xFE209000#32 ∧
      (decodeFields 0xFE209CE3#32).immJ = 0xFFF097E2#32 ∧ (decodeFields 0xFE209CE3#32).immJz = 0x1097E2#32 := by
  decide
theorem test_decode_table_word : decodeTableWord 32 0x123452B7 = some (.lui 5#5 0x12345000#32) := by decide
theorem test_decode_too_few_bytes : decodeBytes [0x13#8, 0x00#8, 0x00#8] = none := by decide
theorem test_decode_bytes_little_endian :
    decodeBytes [0xB7#8, 0x52#8, 0x34#8, 0x12#8, 0x99#8] = some (.ok (.lui 5#5 0x12345000#32), [0x99#8]) := by decide

/-! ## One step of every instruction -/

/-- A running block at `pc` with `x1`, `x2` and some bytes of memory; every other register 0. -/
def boot (pc x1 x2 : Word) (cells : List Host.Cell := []) : State :=
  { State.launch Config.standard (((Vector.replicate 32 0#32).set 1 x1).set 2 x2) (Memory.ofCells 4096 cells) with
    pc := pc }

/-- `p` holds of the state a step of word `w` answers. -/
def after (s : State) (w : Nat) (p : State → Bool) : Bool :=
  match step (s.withFetchWord 32 w) with
  | .next t => p t
  | _ => false

/-- Register `r` holds `v`, PC is `pc`, the result is `res` and the block still runs. -/
def shows (r : RegIdx) (v pc : Word) (res : StepResult) (t : State) : Bool :=
  t.readReg r == v && t.pc == pc && t.result == some res && t.run == .running

/-- The four bytes 0x80, 0xFF, 0x34, 0x12 at 0x200 (95_test_vectors.md part 5). -/
def fourBytes : List Host.Cell := [(0x200, 0x80#8), (0x201, 0xFF#8), (0x202, 0x34#8), (0x203, 0x12#8)]

theorem test_lui : after (boot 0x100#32 0#32 0#32) 0x123452B7 (shows 5#5 0x12345000#32 0x104#32 (.continued)) = true := by
  decide
theorem test_lui_x0 : after (boot 0x100#32 0#32 0#32) 0x12345037 (shows 0#5 0#32 0x104#32 (.continued)) = true := by
  decide
theorem test_auipc_wraps : after (boot 0x100#32 0#32 0#32) 0xFFFFF197 (shows 3#5 0xFFFFF100#32 0x104#32 (.continued)) = true := by
  decide
theorem test_jal_min_wraps : after (boot 0x10#32 0#32 0#32) 0x800000EF (shows 1#5 0x14#32 0xFFF00010#32 (.continued)) = true := by
  decide
theorem test_jal_halfword_target : after (boot 0x10#32 0#32 0#32) 0x002000EF (shows 1#5 0x14#32 0x12#32 (.continued)) = true := by
  decide
theorem test_jalr_rd_is_rs1 : after (boot 0x10#32 0x301#32 0#32) 0x008080E7 (shows 1#5 0x14#32 0x309#32 (.continued)) = true := by
  decide
theorem test_jalr_wraps : after (boot 0x10#32 0#32 0#32) 0xFFF10067 (shows 0#5 0#32 0xFFFFFFFF#32 (.continued)) = true := by
  decide
theorem test_beq_taken : after (boot 0x64#32 10#32 10#32) 0x00208463 (shows 1#5 10#32 0x6C#32 (.continued)) = true := by
  decide
theorem test_beq_not_taken : after (boot 0x64#32 10#32 11#32) 0x00208463 (shows 1#5 10#32 0x68#32 (.continued)) = true := by
  decide
theorem test_bne_taken_back : after (boot 0x100#32 1#32 2#32) 0xFE209CE3 (shows 1#5 1#32 0xF8#32 (.continued)) = true := by
  decide
theorem test_bne_not_taken : after (boot 0x100#32 2#32 2#32) 0xFE209CE3 (shows 1#5 2#32 0x104#32 (.continued)) = true := by
  decide
theorem test_blt_signed : after (boot 0x100#32 0xFFFFFFFF#32 1#32) 0x0020C663 (shows 2#5 1#32 0x10C#32 (.continued)) = true := by
  decide
theorem test_blt_not_taken : after (boot 0x100#32 1#32 0xFFFFFFFF#32) 0x0020C663 (shows 1#5 1#32 0x104#32 (.continued)) = true := by
  decide
theorem test_bge_equal : after (boot 0x100#32 5#32 5#32) 0x0020D863 (shows 1#5 5#32 0x110#32 (.continued)) = true := by
  decide
theorem test_bge_negative_not_taken : after (boot 0x100#32 0x80000000#32 0#32) 0x0020D863 (shows 2#5 0#32 0x104#32 (.continued)) = true := by
  decide
theorem test_bltu_unsigned : after (boot 0x100#32 1#32 0xFFFFFFFF#32) 0x0020E463 (shows 1#5 1#32 0x108#32 (.continued)) = true := by
  decide
theorem test_bltu_not_taken : after (boot 0x100#32 0xFFFFFFFF#32 1#32) 0x0020E463 (shows 2#5 1#32 0x104#32 (.continued)) = true := by
  decide
theorem test_bgeu_unsigned : after (boot 0x100#32 0xFFFFFFFF#32 1#32) 0x0020F463 (shows 2#5 1#32 0x108#32 (.continued)) = true := by
  decide
theorem test_bgeu_not_taken : after (boot 0x100#32 0#32 1#32) 0x0020F463 (shows 2#5 1#32 0x104#32 (.continued)) = true := by
  decide
theorem test_lb_sign : after (boot 0x100#32 0x200#32 0#32 fourBytes) 0x00008103 (shows 2#5 0xFFFFFF80#32 0x104#32 (.continued)) = true := by
  decide
theorem test_lb_at_msize : after (boot 0x100#32 0x1000#32 0x55#32) 0x00008103 (shows 2#5 0#32 0x104#32 (.error .addressOutOfRange)) = true := by
  decide
theorem test_lh_negative_offset : after (boot 0x100#32 0x202#32 0#32 fourBytes) 0xFFE09103 (shows 2#5 0xFFFFFF80#32 0x104#32 (.continued)) = true := by
  decide
theorem test_lw_misaligned : after (boot 0x100#32 0x200#32 0#32 fourBytes) 0x0010A103 (shows 2#5 0x001234FF#32 0x104#32 (.continued)) = true := by
  decide
theorem test_lw_straddles_end : after (boot 0x100#32 0xFFD#32 0x55#32) 0x0000A103 (shows 2#5 0#32 0x104#32 (.error .addressOutOfRange)) = true := by
  decide
theorem test_lbu_zero : after (boot 0x100#32 0x200#32 0#32 fourBytes) 0x0000C103 (shows 2#5 0x80#32 0x104#32 (.continued)) = true := by
  decide
theorem test_lhu_zero : after (boot 0x100#32 0x200#32 0#32 fourBytes) 0x0000D103 (shows 2#5 0xFF80#32 0x104#32 (.continued)) = true := by
  decide
theorem test_sb_low_byte : after (boot 0x100#32 0x200#32 0xDEADBEEF#32) 0x00208023 (fun t =>
    t.pc == 0x104#32 && t.result == some (.continued) && (inspectRange t 0x1FF 3 == some [0x00#8, 0xEF#8, 0x00#8])) = true := by
  decide
theorem test_sb_last_byte : after (boot 0x100#32 0xFFF#32 0xAB#32) 0x00208023 (fun t =>
    t.pc == 0x104#32 && t.result == some (.continued) && (inspectRange t 0xFFE 2 == some [0x00#8, 0xAB#8])) = true := by
  decide
theorem test_sh_two_bytes : after (boot 0x100#32 0x200#32 0xDEADBEEF#32) 0x00209023 (fun t =>
    t.pc == 0x104#32 && t.result == some (.continued) && (inspectRange t 0x1FF 4 == some [0x00#8, 0xEF#8, 0xBE#8, 0x00#8])) = true := by
  decide
theorem test_sh_straddles_end : after (boot 0x100#32 0xFFF#32 0xABCD#32) 0x00209023 (fun t =>
    t.pc == 0x104#32 && t.result == some (.error .addressOutOfRange) && (inspectRange t 0xFFE 2 == some [0x00#8, 0x00#8])) = true := by
  decide
theorem test_sw_misaligned : after (boot 0x100#32 0x200#32 0x11223344#32) 0xFE20AFA3 (fun t =>
    t.pc == 0x104#32 && t.result == some (.continued) && (inspectRange t 0x1FE 6 == some [0x00#8, 0x44#8, 0x33#8, 0x22#8, 0x11#8, 0x00#8])) = true := by
  decide
theorem test_addi_source_example : after (boot 0x100#32 5#32 0#32) 0xFFD08193 (shows 3#5 2#32 0x104#32 (.continued)) = true := by
  decide
theorem test_addi_wraps : after (boot 0x100#32 0xFFFFFFFF#32 0#32) 0x00108193 (shows 3#5 0#32 0x104#32 (.continued)) = true := by
  decide
theorem test_slti_signed : after (boot 0x100#32 0xFFFFFFFF#32 0#32) 0x0000A193 (shows 3#5 1#32 0x104#32 (.continued)) = true := by
  decide
theorem test_slti_equal : after (boot 0x100#32 0xFFFFFFFF#32 0#32) 0xFFF0A193 (shows 3#5 0#32 0x104#32 (.continued)) = true := by
  decide
theorem test_sltiu_sign_extends : after (boot 0x100#32 0xFFFFFFFE#32 0#32) 0xFFF0B193 (shows 3#5 1#32 0x104#32 (.continued)) = true := by
  decide
theorem test_sltiu_seqz : after (boot 0x100#32 7#32 0#32) 0x0010B193 (shows 3#5 0#32 0x104#32 (.continued)) = true := by
  decide
theorem test_xori_not : after (boot 0x100#32 0x0F0F0F0F#32 0#32) 0xFFF0C193 (shows 3#5 0xF0F0F0F0#32 0x104#32 (.continued)) = true := by
  decide
theorem test_ori_negative : after (boot 0x100#32 1#32 0#32) 0x8000E193 (shows 3#5 0xFFFFF801#32 0x104#32 (.continued)) = true := by
  decide
theorem test_andi_negative : after (boot 0x100#32 0x12345678#32 0#32) 0xFF00F193 (shows 3#5 0x12345670#32 0x104#32 (.continued)) = true := by
  decide
theorem test_slli_drops_top : after (boot 0x100#32 0x80000001#32 0#32) 0x00409193 (shows 3#5 0x10#32 0x104#32 (.continued)) = true := by
  decide
theorem test_slli_by_zero : after (boot 0x100#32 0x12345678#32 0#32) 0x00009193 (shows 3#5 0x12345678#32 0x104#32 (.continued)) = true := by
  decide
theorem test_srli_logical : after (boot 0x100#32 0x80000000#32 0#32) 0x0040D193 (shows 3#5 0x08000000#32 0x104#32 (.continued)) = true := by
  decide
theorem test_srai_source_example : after (boot 0x100#32 0x80000000#32 0#32) 0x4040D193 (shows 3#5 0xF8000000#32 0x104#32 (.continued)) = true := by
  decide
theorem test_srai_positive : after (boot 0x100#32 0x70000000#32 0#32) 0x4040D193 (shows 3#5 0x07000000#32 0x104#32 (.continued)) = true := by
  decide
theorem test_add_wraps : after (boot 0x100#32 0xFFFFFFFF#32 2#32) 0x002081B3 (shows 3#5 1#32 0x104#32 (.continued)) = true := by
  decide
theorem test_sub_min : after (boot 0x100#32 0x80000000#32 1#32) 0x402081B3 (shows 3#5 0x7FFFFFFF#32 0x104#32 (.continued)) = true := by
  decide
theorem test_sll_amount_33 : after (boot 0x100#32 1#32 0x21#32) 0x002091B3 (shows 3#5 2#32 0x104#32 (.continued)) = true := by
  decide
theorem test_slt_signed : after (boot 0x100#32 0x80000000#32 0x7FFFFFFF#32) 0x0020A1B3 (shows 3#5 1#32 0x104#32 (.continued)) = true := by
  decide
theorem test_sltu_unsigned : after (boot 0x100#32 0x80000000#32 0x7FFFFFFF#32) 0x0020B1B3 (shows 3#5 0#32 0x104#32 (.continued)) = true := by
  decide
theorem test_xor : after (boot 0x100#32 0xFF00FF00#32 0x0FF00FF0#32) 0x0020C1B3 (shows 3#5 0xF0F0F0F0#32 0x104#32 (.continued)) = true := by
  decide
theorem test_srl_amount_31 : after (boot 0x100#32 0x80000000#32 0xFFFFFFFF#32) 0x0020D1B3 (shows 3#5 1#32 0x104#32 (.continued)) = true := by
  decide
theorem test_sra_amount_31 : after (boot 0x100#32 0x80000000#32 0xFFFFFFFF#32) 0x4020D1B3 (shows 3#5 0xFFFFFFFF#32 0x104#32 (.continued)) = true := by
  decide
theorem test_or : after (boot 0x100#32 0xF0F0F0F0#32 0x0F0F0F0F#32) 0x0020E1B3 (shows 3#5 0xFFFFFFFF#32 0x104#32 (.continued)) = true := by
  decide
theorem test_and : after (boot 0x100#32 0xF0F0F0F0#32 0xFF00FF00#32) 0x0020F1B3 (shows 3#5 0xF000F000#32 0x104#32 (.continued)) = true := by
  decide
theorem test_add_same_register : after (boot 0x100#32 0x40000000#32 0#32) 0x001080B3 (shows 1#5 0x80000000#32 0x104#32 (.continued)) = true := by
  decide
theorem test_fence : after (boot 0x40#32 3#32 0#32) 0x0FF3028F (shows 1#5 3#32 0x44#32 (.continued)) = true := by
  decide
theorem test_fence_i : after (boot 0x40#32 3#32 0#32) 0x0000100F (shows 1#5 3#32 0x44#32 (.continued)) = true := by
  decide
theorem test_ecall_traps : after (boot 0x18#32 3#32 0#32) 0x00000073 (shows 1#5 3#32 0x1C#32 (.trapped .ecall)) = true := by
  decide
theorem test_ebreak_traps : after (boot 0x28#32 3#32 0#32) 0x00100073 (shows 1#5 3#32 0x2C#32 (.trapped .ebreak)) = true := by
  decide
theorem test_csrrw_hook : after (boot 0x100#32 0#32 0xAB#32) 0x300112F3 (fun t => t.pc == 0x104#32 && t.csrDraws == 1 &&
    t.hook == some ⟨.write, 0x300#12, 5#5, 0xAB#32⟩) = true := by
  decide
theorem test_csrrs_hook : after (boot 0x100#32 0#32 0xAB#32) 0x300122F3 (fun t => t.pc == 0x104#32 && t.csrDraws == 1 &&
    t.hook == some ⟨.setBits, 0x300#12, 5#5, 0xAB#32⟩) = true := by
  decide
theorem test_csrrc_hook : after (boot 0x100#32 0#32 0xAB#32) 0x300132F3 (fun t => t.pc == 0x104#32 && t.csrDraws == 1 &&
    t.hook == some ⟨.clearBits, 0x300#12, 5#5, 0xAB#32⟩) = true := by
  decide
theorem test_csrrwi_hook : after (boot 0x100#32 0#32 0xAB#32) 0x3003D2F3 (fun t => t.pc == 0x104#32 && t.csrDraws == 1 &&
    t.hook == some ⟨.write, 0x300#12, 5#5, 7#32⟩) = true := by
  decide
theorem test_csrrsi_hook : after (boot 0x100#32 0#32 0xAB#32) 0x3003E2F3 (fun t => t.pc == 0x104#32 && t.csrDraws == 1 &&
    t.hook == some ⟨.setBits, 0x300#12, 5#5, 7#32⟩) = true := by
  decide
theorem test_csrrci_hook : after (boot 0x100#32 0#32 0xAB#32) 0x3003F2F3 (fun t => t.pc == 0x104#32 && t.csrDraws == 1 &&
    t.hook == some ⟨.clearBits, 0x300#12, 5#5, 7#32⟩) = true := by
  decide
theorem test_csrrs_to_x0_still_emits : after (boot 0x100#32 0#32 0xAB#32) 0xC0012073 (fun t => t.pc == 0x104#32 && t.csrDraws == 1 &&
    t.hook == some ⟨.setBits, 0xC00#12, 0#5, 0xAB#32⟩) = true := by
  decide
/-- The draw lands in `rd`; which word it is stays open (R295). -/
theorem test_csrrw_draw : ∃ t, exec (.csrrw 5#5 0x300#12 2#5) (boot 0x100#32 0#32 0xAB#32) = .next t ∧
    t.readReg 5#5 = Config.csrRdata 0 := ⟨_, rfl, rfl⟩

/-! ## Errors, run states and parameters (95_test_vectors.md part 9, P6) -/

theorem test_illegal_halts : after (boot 0x100#32 7#32 0#32) 0 (fun t => t.run == .halted && t.pc == 0x100#32 &&
    t.readReg 1#5 == 7#32 && t.result == some (.error .illegalInstruction)) = true := by decide
/-- `boot` with HALT_ON_ILLEGAL and REG0_HARDWIRED both false. -/
def bootLoose (pc : Word) : State :=
  { boot pc 7#32 0#32 with cfg := { Config.standard with haltOnIllegal := false, reg0Hardwired := false } }
theorem test_illegal_skips : after (bootLoose 0x100#32) 0 (shows 1#5 7#32 0x104#32 (.error .illegalInstruction)) = true := by
  decide
theorem test_subopcode_skips :
    after (bootLoose 0x100#32) 0x0000B103 (shows 2#5 0#32 0x104#32 (.error .unknownSubopcode)) = true := by decide
theorem test_fetch_straddles_halts : after (boot 0xFFE#32 7#32 0#32) 0x13 (fun t => t.run == .halted &&
    t.pc == 0xFFE#32 && t.result == some (.error .addressOutOfRange)) = true := by decide
theorem test_fetch_at_msize_skips :
    after (bootLoose 0x1000#32) 0x13 (shows 1#5 7#32 0x1004#32 (.error .addressOutOfRange)) = true := by decide
theorem test_fetch_misaligned :
    after (boot 0x102#32 0#32 0#32) 0x00100093 (shows 1#5 1#32 0x106#32 .continued) = true := by decide
theorem test_x0_stores_when_not_hardwired :
    after (bootLoose 0x100#32) 0x00500013 (shows 0#5 5#32 0x104#32 .continued) = true := by decide
theorem test_x0_discards_when_hardwired :
    after (boot 0x100#32 7#32 0#32) 0x00500013 (shows 0#5 0#32 0x104#32 .continued) = true := by decide
theorem test_stop_is_final : step (stop State.reset) = .fault .halted := rfl

/-! ## The byte memory and the host's side -/

theorem test_memory_canonical :
    (((Memory.writeByte [] 7 1#8).writeByte 3 2#8).writeByte 7 0#8) = [(3, 2#8)] := by decide
theorem test_reset_memory_canonical : State.reset.mem.wf = true := by decide
theorem test_load_refused_at_msize : act State.reset (.load 4096 1#8) = .refused .loadOutOfRange := rfl
theorem test_inspect_refused_at_msize : inspectByte State.reset 4096 = none := by decide
theorem test_construct_refuses_msize_zero :
    construct true { Config.standard with msize := 0 } (Vector.replicate 32 0#32) [] =
      .refused .illegalConfiguration := rfl

/-! ## Names (R24, R98, R99) -/

theorem test_abi_names : abiNames.length = 32 ∧ abiName 2#5 = "sp" ∧ abiName 31#5 = "t6" := by decide
theorem test_li_small : (Pseudo.li 5#5 (-2048#32)).expand = [.addi 5#5 0#5 (-2048#32)] := by decide
theorem test_li_large :
    (Pseudo.li 4#5 0xDEADBEEF#32).expand = [.lui 4#5 0xDEADC000#32, .addi 4#5 4#5 (-273#32)] := by decide

/-! ## Witnesses: a concrete input meets each obligation's hypotheses -/

/-- A block at 0x100 about to run `w`, with `x1` and `x2`. -/
def at100 (w : Nat) (x1 x2 : Word) : State := (boot 0x100#32 x1 x2).withFetchWord 32 w

theorem witness_DecodeOfEncodeIsTheInstruction :
    (Instr.jal 1#5 (-1048576#32)).wf = true ∧ (Instr.csrrci 31#5 0xFFF#12 31#32).wf = true := by decide
theorem witness_EncodeOfDecodeIsTheWord :
    decode 0xFFF00093#32 = .ok (.addi 1#5 0#5 (-1#32)) := by decide
theorem witness_DecodeFollowsTheOpcodeTable :
    (0x40005013#32, 0xFE00707F#32, "SRAI") ∈ opcodeTable := by decide
theorem witness_PrivilegedAndMultiplyWordsRejected :
    (opcodeOf 0x12000073#32 = 0x73#7 ∧ funct3Of 0x12000073#32 = 0#3 ∧ funct7Of 0x12000073#32 = 0b0001001#7) ∧
      opcodeOf 0x022081B3#32 = 0x33#7 ∧ funct7Of 0x022081B3#32 = 0b0000001#7 := by decide
theorem witness_RegistersAreIndependent :
    ¬(State.reset.cfg.reg0Hardwired = true ∧ (31#5 : RegIdx) = 0#5) ∧ State.reset.cfg.reg0Hardwired = true ∧
      ¬((bootLoose 0#32).cfg.reg0Hardwired = true ∧ (0#5 : RegIdx) = 0#5) := by decide
theorem witness_MemoryRoundTrip :
    State.reset.mem.wf = true ∧ (4092#32 : Word).toNat + Width.word.bytes ≤ State.reset.cfg.msize ∧
      (4093#32 : Word).toNat + Width.word.bytes > State.reset.cfg.msize := by decide
theorem witness_MemoryIsLittleEndian :
    (boot 4092#32 0#32 0#32 fourBytes).mem.wf = true ∧ (boot 4092#32 0#32 0#32 fourBytes).inRange 4095#32 .byte = true ∧
      (boot 4092#32 0#32 0#32 fourBytes).inRange 4094#32 .half = true ∧
      (boot 4092#32 0#32 0#32 fourBytes).inRange 4092#32 .word = true ∧ 3 < Width.word.bytes ∧
      (boot 4092#32 0#32 0#32 fourBytes).inRange (boot 4092#32 0#32 0#32 fourBytes).pc .word = true := by decide
theorem witness_WriteChangesOnlyItsBytes :
    State.reset.mem.wf = true ∧ (4093#32 : Word).toNat + Width.word.bytes > State.reset.cfg.msize := by decide
theorem witness_NarrowReadsSeeTheWordWritten :
    State.reset.mem.wf = true ∧ State.reset.cfg.wf = true ∧ (4092#32 : Word).toNat + 4 ≤ State.reset.cfg.msize := by decide
theorem witness_StepRunsTheDecodedInstruction :
    (at100 0xFFD08193 5#32 0#32).AboutToRun (.addi 3#5 1#5 (-3#32)) := by decide
/-- One taken and one untaken branch, a jump, and a straight-line instruction; and a word that does not decode. -/
theorem witness_PcAfterEveryInstruction :
    (at100 0x00208463 1#32 1#32).AboutToRun (.beq 1#5 2#5 8#32) ∧ (at100 0xFE209CE3 2#32 2#32).AboutToRun (.bne 1#5 2#5 (-8#32)) ∧
      (at100 0x002000EF 0#32 0#32).AboutToRun (.jal 1#5 2#32) ∧ (at100 0x00000073 0#32 0#32).AboutToRun .ecall ∧
      (∃ t, step (at100 0 0#32 0#32) = .next t) ∧ (at100 0 0#32 0#32).inRange (at100 0 0#32 0#32).pc .word = true ∧
      decode (at100 0 0#32 0#32).nextWord = .error .illegalInstruction :=
  ⟨by decide, by decide, by decide, by decide, ⟨_, rfl⟩, by decide, by decide⟩
theorem witness_DecodeErrorHaltsOrSkips :
    (at100 0 0#32 0#32).run = .running ∧ (at100 0 0#32 0#32).inRange (at100 0 0#32 0#32).pc .word = true ∧
      decode (at100 0 0#32 0#32).nextWord = .error .illegalInstruction ∧ (at100 0 0#32 0#32).cfg.haltOnIllegal = true ∧
      (bootLoose 0x100#32).run = .running ∧ (bootLoose 0x100#32).inRange (bootLoose 0x100#32).pc .word = true ∧
      decode (bootLoose 0x100#32).nextWord = .error .illegalInstruction ∧ (bootLoose 0x100#32).cfg.haltOnIllegal = false := by decide
theorem witness_FetchOutOfRangeHaltsOrSkips :
    (boot 4093#32 0#32 0#32).run = .running ∧ (boot 4093#32 0#32 0#32).pc.toNat + 4 > (boot 4093#32 0#32 0#32).cfg.msize ∧
      (boot 4093#32 0#32 0#32).cfg.haltOnIllegal = true ∧ (bootLoose 0x1000#32).run = .running ∧
      (bootLoose 0x1000#32).pc.toNat + 4 > (bootLoose 0x1000#32).cfg.msize ∧
      (bootLoose 0x1000#32).cfg.haltOnIllegal = false := by decide
theorem witness_HaltedHasNoStep :
    (stop State.reset).run = .halted := by decide
theorem witness_RunningStepsReturnAResult :
    State.reset.run = .running ∧ step (stop State.reset) = .fault .halted := ⟨rfl, rfl⟩
/-- A running block whose step halts it, one whose step does not, and a host action on a halted block. -/
theorem witness_RunStateTransitions :
    State.reset.run = .running ∧ (∃ t, step State.reset = .next t ∧ t.run = .halted) ∧
      (∃ t, step (at100 0x13 0#32 0#32) = .next t ∧ t.run = .running) ∧ (stop State.reset).run = .halted ∧
      (∃ t, act (stop State.reset) (.load 0 1#8) = .next t) :=
  ⟨rfl, ⟨_, rfl, by decide⟩, ⟨_, rfl, by decide⟩, rfl, ⟨_, rfl⟩⟩
/-- One step for each kind of result. -/
theorem witness_StepResultByPriority :
    (∃ t, step (boot 4093#32 0#32 0#32) = .next t) ∧ (∃ t, step (at100 0 0#32 0#32) = .next t) ∧
      (∃ t, step (at100 0x0000B103 0#32 0#32) = .next t) ∧ (∃ t, step (at100 0x00000073 0#32 0#32) = .next t) ∧
      (∃ t, step (at100 0x0000A103 4093#32 0#32) = .next t) ∧ (∃ t, step (at100 0x0000A103 4092#32 0#32) = .next t) :=
  ⟨⟨_, rfl⟩, ⟨_, rfl⟩, ⟨_, rfl⟩, ⟨_, rfl⟩, ⟨_, rfl⟩, ⟨_, rfl⟩⟩
theorem witness_IllegalInstructionOnlyFromTheOpcode :
    ∃ t, step (at100 0 0#32 0#32) = .next t ∧ t.result = some (.error .illegalInstruction) ∧
      (at100 0 0#32 0#32).inRange (at100 0 0#32 0#32).pc .word = true ∧
      opcodeOf (at100 0 0#32 0#32).nextWord ∉ groupOpcodes :=
  ⟨_, rfl, by decide, by decide, by decide⟩
theorem witness_TrapsOnlyFromEcallAndEbreak :
    (∃ t, step (at100 0x00000073 0#32 0#32) = .next t ∧ t.result = some (.trapped .ecall)) ∧
      (∃ t, step (at100 0x00100073 0#32 0#32) = .next t ∧ t.result = some (.trapped .ebreak)) ∧
      ∃ t, step (at100 0x00000013 0#32 0#32) = .next t ∧ t.result = some .continued :=
  ⟨⟨_, rfl, by decide⟩, ⟨_, rfl, by decide⟩, ⟨_, rfl, by decide⟩⟩
theorem witness_ParametersNeverChange :
    (∃ t, act State.reset .step = .next t) ∧ (∃ t, act State.reset .stop = .next t) ∧
      ∃ t, act State.reset (.load 4095 1#8) = .next t :=
  ⟨⟨_, rfl⟩, ⟨_, rfl⟩, ⟨_, rfl⟩⟩
/-- SW x2, 0(x1) with x1 = PC: the step overwrites its own word. -/
theorem witness_InstructionRegisterIsTheFetchedWord :
    ∃ t, step (at100 0x0020A023 0x100#32 5#32) = .next t ∧ t.ir = 0x0020A023#32 ∧
      (at100 0x0020A023 0x100#32 5#32).inRange (at100 0x0020A023 0x100#32 5#32).pc .word = true ∧
      t.memRead 0x100#32 .word = 5#32 :=
  ⟨_, rfl, by decide, by decide, by decide⟩
theorem witness_OnlyStoresChangeMemory :
    ∃ t, (at100 0x00208023 4095#32 0xAB#32).mem.wf = true ∧ step (at100 0x00208023 4095#32 0xAB#32) = .next t ∧
      t.mem.readByte 4095 ≠ (at100 0x00208023 4095#32 0xAB#32).mem.readByte 4095 :=
  ⟨_, by decide, rfl, by decide⟩
theorem witness_OneWritePerStep :
    ∃ t, step (at100 0x00208023 4095#32 0xAB#32) = .next t ∧
      ∃ a, t.mem.readByte a ≠ (at100 0x00208023 4095#32 0xAB#32).mem.readByte a :=
  ⟨_, rfl, 4095, by decide⟩
theorem witness_StepKeepsTheInvariant :
    (at100 0x0020A023 4092#32 0xAB#32).Inv ∧ ∃ t, step (at100 0x0020A023 4092#32 0xAB#32) = .next t :=
  ⟨by decide, _, rfl⟩
theorem witness_EveryReachedStateMeetsTheInvariant :
    ∃ s t, construct true { Config.standard with msize := 1 } (Vector.replicate 32 1#32) [(0, 2#8), (5, 3#8)] = .next s ∧
      Reaches s t ∧ t.run = .halted :=
  ⟨_, _, rfl, .act .stop .start rfl, rfl⟩
theorem witness_NextFetchSeesTheStore :
    (at100 0x0020A023 0x104#32 0x13#32).Inv ∧ (at100 0x0020A023 0x104#32 0x13#32).AboutToRun (.sw 1#5 2#5 0#32) ∧
      ((at100 0x0020A023 0x104#32 0x13#32).readReg 1#5 + 0#32).toNat + 4 ≤ (at100 0x0020A023 0x104#32 0x13#32).cfg.msize ∧
      (at100 0x0020A023 0x104#32 0x13#32).readReg 1#5 + 0#32 = (at100 0x0020A023 0x104#32 0x13#32).pc + 4#32 := by decide
theorem witness_StoreThenLoadReturnsTheValue :
    (boot 0#32 4092#32 9#32).Inv ∧
      ((boot 0#32 4092#32 9#32).readReg 1#5 + 0#32).toNat + 4 ≤ (boot 0#32 4092#32 9#32).cfg.msize ∧
      ((boot 0#32 4092#32 9#32).readReg 1#5 + 2#32).toNat + 2 ≤ (boot 0#32 4092#32 9#32).cfg.msize ∧
      ((boot 0#32 4092#32 9#32).readReg 1#5 + 3#32).toNat + 1 ≤ (boot 0#32 4092#32 9#32).cfg.msize := by decide
theorem witness_ConstructionSetsTheLaunchState :
    (1 ≤ ({ Config.standard with msize := 1 } : Config).msize ∧ ({ Config.standard with msize := 1 } : Config).msize ≤ 2 ^ 32) ∧
      (1 ≤ ({ Config.standard with msize := 2 ^ 32 } : Config).msize ∧
        ({ Config.standard with msize := 2 ^ 32 } : Config).msize ≤ 2 ^ 32) ∧
      (1 ≤ Config.standard.msize ∧ Config.standard.msize ≤ 2 ^ 32) ∧
      (4095 < Config.standard.msize ∧ ([(4095, 7#8), (4095, 8#8)] : List Host.Cell).lookup 4095 = some 7#8) ∧
      (({ Config.standard with msize := 0 } : Config).msize = 0 ∨ ({ Config.standard with msize := 0 } : Config).msize > 2 ^ 32) ∧
      (({ Config.standard with msize := 2 ^ 32 + 1 } : Config).msize = 0 ∨
        ({ Config.standard with msize := 2 ^ 32 + 1 } : Config).msize > 2 ^ 32) := by decide
theorem witness_StopOnlyHalts :
    (stop State.reset).run = .halted := by decide
theorem witness_InspectionShowsTheState :
    4095 < State.reset.cfg.msize ∧ 4096 ≥ State.reset.cfg.msize ∧ 4092 + 4 ≤ State.reset.cfg.msize ∧ 3 < 4 ∧
      4093 + 4 > State.reset.cfg.msize := by decide
theorem witness_LoaderWritesMemoryOnly :
    State.reset.mem.wf = true ∧ State.reset.hasStepped = false ∧ 4095 < State.reset.cfg.msize ∧
      4096 ≥ State.reset.cfg.msize ∧ ∃ t u, step State.reset = .next t ∧ Reaches t u ∧ u = stop t :=
  ⟨by decide, by decide, by decide, by decide, _, _, rfl, .act .stop .start rfl, rfl⟩
theorem witness_HookEmittedExactlyByCsrInstructions :
    (∃ t, step (at100 0x300112F3 0#32 0xAB#32) = .next t ∧ t.hook = some ⟨.write, 0x300#12, 5#5, 0xAB#32⟩) ∧
      ∃ t, step (at100 0x13 0#32 0#32) = .next t ∧ t.hook = none :=
  ⟨⟨_, rfl, by decide⟩, ⟨_, rfl, by decide⟩⟩
theorem witness_LuiWritesTheUpperImmediate :
    opcodeOf 0xFFFFF2B7#32 = 0x37#7 ∧ (at100 0xFFFFF2B7 0#32 0#32).AboutToRun (.lui 5#5 0xFFFFF000#32) := by decide
theorem witness_FencesOnlyAdvance :
    (at100 0x0FF3028F 0#32 0#32).AboutToRun (.fence 5#5 6#5 0x0FF#12) ∧ (at100 0x0000100F 0#32 0#32).AboutToRun (.fenceI 0#5 0#5 0#12) := by decide
theorem witness_LoadsReadMemoryInRange :
    ((boot 0#32 4095#32 9#32).readReg 1#5 + 0#32).toNat + 1 ≤ (boot 0#32 4095#32 9#32).cfg.msize ∧
      ((boot 0#32 4095#32 9#32).readReg 1#5 + 0xFFFFFFFF#32).toNat + 2 ≤ (boot 0#32 4095#32 9#32).cfg.msize ∧
      ((boot 0#32 4095#32 9#32).readReg 1#5 + 0xFFFFFFFD#32).toNat + 4 ≤ (boot 0#32 4095#32 9#32).cfg.msize := by decide
theorem witness_LoadsOutOfRangeWriteZero :
    ((boot 0#32 4095#32 9#32).readReg 1#5 + 1#32).toNat + 1 > (boot 0#32 4095#32 9#32).cfg.msize ∧
      ((boot 0#32 4095#32 9#32).readReg 1#5 + 0#32).toNat + 2 > (boot 0#32 4095#32 9#32).cfg.msize ∧
      ((boot 0#32 4095#32 9#32).readReg 1#5 + 0xFFFFFFFE#32).toNat + 4 > (boot 0#32 4095#32 9#32).cfg.msize := by decide
theorem witness_StoresWriteTheirBytes :
    (boot 0#32 4095#32 9#32).mem.wf = true ∧
      ((boot 0#32 4095#32 9#32).readReg 1#5 + 0#32).toNat + 1 ≤ (boot 0#32 4095#32 9#32).cfg.msize ∧
      ((boot 0#32 4095#32 9#32).readReg 1#5 + 0xFFFFFFFF#32).toNat + 2 ≤ (boot 0#32 4095#32 9#32).cfg.msize ∧
      ((boot 0#32 4095#32 9#32).readReg 1#5 + 0xFFFFFFFD#32).toNat + 4 ≤ (boot 0#32 4095#32 9#32).cfg.msize := by decide
theorem witness_StoresOutOfRangeChangeNothing :
    ((boot 0#32 4095#32 9#32).readReg 1#5 + 1#32).toNat + 1 > (boot 0#32 4095#32 9#32).cfg.msize ∧
      ((boot 0#32 4095#32 9#32).readReg 1#5 + 0#32).toNat + 2 > (boot 0#32 4095#32 9#32).cfg.msize ∧
      ((boot 0#32 4095#32 9#32).readReg 1#5 + 0xFFFFFFFE#32).toNat + 4 > (boot 0#32 4095#32 9#32).cfg.msize := by decide
theorem witness_NopOnlyAdvances :
    State.reset.cfg.reg0Hardwired = true ∧ Instr.and 0#5 31#5 1#5 ∈ aluToZero 31#5 1#5 (-2048#32) 31#5 ∧
      Instr.srai 0#5 31#5 31#5 ∈ aluToZero 31#5 1#5 (-2048#32) 31#5 := by decide
theorem witness_LoadImmediatePseudoBuildsTheConstant :
    State.reset.readReg 0#5 = 0#32 ∧ (bootLoose 0#32).readReg 0#5 = 0#32 := by decide

end Sys2Proof.Tests
end

section
/-! The state of the block (spec 10_state.md): the register file and the instruction register. -/

namespace Sys2Proof.Machine

/-- The four bytes of a fetched word as a number, lowest address first (R54). -/
theorem toNat_wordOfBytes (b0 b1 b2 b3 : Byte) :
    (wordOfBytes b0 b1 b2 b3).toNat = b0.toNat + 256 * b1.toNat + 65536 * b2.toNat + 16777216 * b3.toNat := by
  simp only [wordOfBytes, toNat_append_eq_add]
  omega

/-- A word read in range is the little-endian value of its bytes (R54, R55). -/
theorem State.toNat_memRead_word {s : State} {a : Word} (h : s.inRange a .word = true) :
    (s.memRead a .word).toNat =
      s.byteVal a 0 + 256 * s.byteVal a 1 + 65536 * s.byteVal a 2 + 16777216 * s.byteVal a 3 := by
  rw [State.memRead, if_pos h]
  exact toNat_wordOfBytes ..

/-- A step whose fetch is in range leaves the fetched word in IR and that word's fields in the record, whether it
rejects the word or executes it: nothing after fetch and decode writes either (R34, R35). -/
theorem ir_decoded_of_step {s t : State} (h : step s = .next t) (hp : s.inRange s.pc .word = true) :
    t.ir = s.nextWord ∧ t.decoded = decodeFields s.nextWord := by
  obtain ⟨-, hc⟩ := step_cases h
  cases hc with
  | fetchOutOfRange hp' _ => exact absurd hp (by simp [hp'])
  | rejected e _ _ ht => subst ht; exact ⟨rfl, rfl⟩
  | executed i _ he =>
    obtain ⟨t', ht', ⟨-, -, hir, hdecoded⟩, -⟩ := exec_effect i s.fetch.stage
    cases he.symm.trans ht'
    exact ⟨hir, hdecoded⟩

end Sys2Proof.Machine

namespace Sys2Proof

open Machine

/-- Settles O10: each clause is a case of the one law for reads after a write, `State.readReg_writeReg`. -/
theorem registersAreIndependent : Obligations.RegistersAreIndependent := by
  intro s r v
  refine ⟨fun hr => ?_, fun q hq => ?_, fun hz => ⟨s.readReg_zero hz, (s.writeReg r v).readReg_zero hz⟩⟩
  · rw [State.readReg_writeReg, if_pos ⟨rfl, hr⟩]
  · rw [State.readReg_writeReg, if_neg fun h => hq h.1]

/-- Settles O26: IR and the record are fixed by the fetch, so a store of the same step does not reach them. -/
theorem instructionRegisterIsTheFetchedWord : Obligations.InstructionRegisterIsTheFetchedWord := by
  intro s t h hp
  obtain ⟨hir, hdecoded⟩ := ir_decoded_of_step h hp
  rw [hdecoded, hir]
  exact ⟨State.toNat_memRead_word hp, rfl⟩

end Sys2Proof
end

section
/-! The byte memory (spec 20_memory.md): reads by width, the bytes a write leaves, and accesses out of range. -/

namespace Sys2Proof.Machine

variable {s : State} {a : Word} {w : Width}

/-- A byte read in range is that byte, zero-extended (R54, R55). -/
theorem State.toNat_memRead_byte (h : s.inRange a .byte = true) : (s.memRead a .byte).toNat = s.byteVal a 0 := by
  rw [State.memRead, if_pos h]
  exact BitVec.toNat_setWidth_of_le (by decide)

/-- A halfword read in range is the little-endian value of its bytes, zero-extended (R54, R55). -/
theorem State.toNat_memRead_half (h : s.inRange a .half = true) :
    (s.memRead a .half).toNat = s.byteVal a 0 + 256 * s.byteVal a 1 := by
  rw [State.memRead, if_pos h, Memory.readLE, BitVec.toNat_setWidth_of_le (by decide), toNat_append_eq_add]
  simp only [State.byteVal, Nat.add_zero]
  omega

/-- A write in range puts byte `k` of the value, lowest first, at `a + k` (R54, R56). -/
theorem State.byteVal_memWrite {k : Nat} (v : Word) (hm : s.mem.wf = true) (h : s.inRange a w = true)
    (hk : k < w.bytes) : (s.memWrite a w v).byteVal a k = v.toNat / 256 ^ k % 256 := by
  rw [State.byteVal, s.readByte_memWrite a w v _ hm, if_pos ⟨h, by omega, by omega⟩, Nat.add_sub_cancel_left]
  exact w.toNat_getD_bytesOf v k hk _

/-- A write moves no bound (R53). -/
@[simp] theorem State.inRange_memWrite (a b : Word) (w u : Width) (v : Word) :
    (s.memWrite a w v).inRange b u = s.inRange b u := rfl

/-- A read after a write of the same address and width, in range, gives the value's low bytes: each byte read is the
byte written, and together they are the value modulo `256 ^ w.bytes` (R63). -/
theorem State.toNat_memRead_memWrite (v : Word) (hm : s.mem.wf = true) (h : s.inRange a w = true) :
    ((s.memWrite a w v).memRead a w).toNat = v.toNat % 2 ^ (8 * w.bytes) := by
  have hbyte : ∀ k < w.bytes, (s.memWrite a w v).byteVal a k = v.toNat / 256 ^ k % 256 :=
    fun k hk => State.byteVal_memWrite v hm h hk
  rw [← State.inRange_memWrite a a w w v] at h
  cases w with
  | byte =>
    rw [State.toNat_memRead_byte h, hbyte 0 (by decide)]
    simp only [Width.bytes]
    omega
  | half =>
    rw [State.toNat_memRead_half h, hbyte 0 (by decide), hbyte 1 (by decide)]
    simp only [Width.bytes]
    omega
  | word =>
    rw [State.toNat_memRead_word h, hbyte 0 (by decide), hbyte 1 (by decide), hbyte 2 (by decide),
      hbyte 3 (by decide)]
    simp only [Width.bytes]
    omega

/-- An access in range reports no error (R55, R56). -/
theorem State.accessResult_of_inRange (h : s.inRange a w = true) : s.accessResult a w = .continued := if_pos h

/-- Out of range a read gives 0, a write changes nothing, and both report it (R55, R56). -/
theorem State.access_out_of_range (v : Word) (h : s.inRange a w = false) :
    s.memRead a w = 0#32 ∧ s.memWrite a w v = s ∧ s.accessResult a w = .error .addressOutOfRange := by
  simp [State.memRead, State.memWrite, State.accessResult, h]

end Sys2Proof.Machine

namespace Sys2Proof

open Machine

/-- Settles O11: in range the bytes read back are the bytes written; out of range nothing is read or written. -/
theorem memoryRoundTrip : Obligations.MemoryRoundTrip := by
  intro s a w v hm
  refine ⟨fun h => ?_, fun h => ?_⟩
  · have hin : s.inRange a w = true := (s.inRange_iff a w).2 h
    exact ⟨State.toNat_memRead_memWrite v hm hin, State.accessResult_of_inRange hin,
      State.accessResult_of_inRange (by rwa [State.inRange_memWrite])⟩
  · exact State.access_out_of_range v ((s.inRange_false_iff a w).2 h)

/-- Settles O12: the read law of each width, the bytes a write leaves, and the word law again at PC, since fetch reads
with the same `memRead`. -/
theorem memoryIsLittleEndian : Obligations.MemoryIsLittleEndian := fun _ hm _ =>
  ⟨State.toNat_memRead_byte, State.toNat_memRead_half, State.toNat_memRead_word,
    fun _ v _ hin hk => State.byteVal_memWrite v hm hin hk, State.toNat_memRead_word⟩

end Sys2Proof
end

section
/-! The encoding (spec 30_encoding.md): the numbers the decoder's fields hold, and the words dispatch calls illegal. -/

namespace Sys2Proof

/-! ## Fields as numbers (R81, R83) -/

/-- Bits `start + len - 1` down to `start` of a word, as a number. -/
theorem toNat_extractLsb'_eq_div_mod (w : Word) (start len : Nat) :
    (w.extractLsb' start len).toNat = w.toNat / 2 ^ start % 2 ^ len := by
  rw [BitVec.extractLsb'_toNat, Nat.shiftRight_eq_div_pow]

/-- `word[31:25]` reaches the top of the word, so nothing is cut off above it. -/
theorem toNat_funct7Of (w : Word) : (funct7Of w).toNat = w.toNat / 2 ^ 25 := by
  rw [funct7Of, toNat_extractLsb'_eq_div_mod]
  omega

/-- `word[31:20]` reaches the top of the word, so nothing is cut off above it. -/
theorem toNat_rawI (w : Word) : (rawI w).toNat = w.toNat / 2 ^ 20 := by
  rw [rawI, toNat_extractLsb'_eq_div_mod]
  omega

/-- Sign extension to a word keeps the two's-complement value of the field. -/
theorem toInt_signExtend_eq_signedValue {n : Nat} (v : BitVec n) (hpos : 0 < n) (hn : n ≤ 32) :
    (v.signExtend 32).toInt = signedValue n v.toNat := by
  obtain ⟨m, rfl⟩ := Nat.exists_eq_add_one.2 hpos
  rw [BitVec.toInt_signExtend_of_le hn, BitVec.toInt_eq_toNat_cond, signedValue, Nat.add_sub_cancel]
  have hpow : 2 ^ (m + 1) = 2 * 2 ^ m := by rw [Nat.pow_succ, Nat.mul_comm]
  push_cast
  split <;> split <;> omega

/-- The value of a sign-extended field fits the field. -/
theorem toInt_signExtend_bounds {n : Nat} (v : BitVec n) (hn : n ≤ 32) :
    -2 ^ (n - 1) ≤ (v.signExtend 32).toInt ∧ (v.signExtend 32).toInt < 2 ^ (n - 1) := by
  rw [BitVec.toInt_signExtend_of_le hn]
  exact ⟨BitVec.le_toInt v, BitVec.toInt_lt⟩

/-- Settles O1: each field is a division of the word, and the two that reach bit 31 need no reduction; the immediate is
the two's-complement value of `word[31:20]`. -/
theorem decoderExtractsFieldsAndImmI : Obligations.DecoderExtractsFieldsAndImmI := by
  intro w
  have bits := toNat_extractLsb'_eq_div_mod w
  have hopcode : (opcodeOf w).toNat = w.toNat % 128 := by rw [opcodeOf, bits]; omega
  have hz : ((rawI w).setWidth 32).toNat = (rawI w).toNat := BitVec.toNat_setWidth_of_le (by decide)
  have himm := toInt_signExtend_eq_signedValue (rawI w) (by decide) (by decide)
  obtain ⟨hlo, hhi⟩ := toInt_signExtend_bounds (rawI w) (by decide)
  rw [toNat_rawI] at hz himm
  exact ⟨hopcode, bits 7 5, bits 12 3, bits 15 5, bits 20 5, toNat_funct7Of w, bits 20 5, himm, hlo,
    Int.le_of_lt_add_one hhi, hz⟩

/-! ## Words dispatch calls illegal (R92, R97) -/

/-- A verdict that is neither the default nor any row's is not given. -/
theorem firstMatch_ne {n : Nat} {key : BitVec n} {dflt r : Except DecodeError Instr}
    {rows : List (BitVec n × Except DecodeError Instr)} (hdflt : dflt ≠ r) (hrows : ∀ row ∈ rows, row.2 ≠ r) :
    firstMatch key dflt rows ≠ r := by
  intro h
  rcases firstMatch_cases h with ⟨row, hm, -, hr⟩ | ⟨-, hd⟩
  · exact hrows row hm hr
  · exact hdflt hd

/-- When no row has the default's verdict, the default is given exactly for the keys that no row has. -/
theorem firstMatch_eq_dflt_iff {n : Nat} {key : BitVec n} {dflt : Except DecodeError Instr}
    {rows : List (BitVec n × Except DecodeError Instr)} (hrows : ∀ row ∈ rows, row.2 ≠ dflt) :
    firstMatch key dflt rows = dflt ↔ ∀ row ∈ rows, key ≠ row.1 := by
  refine ⟨fun h => ?_, firstMatch_of_not_mem⟩
  rcases firstMatch_cases h with ⟨row, hm, -, hr⟩ | ⟨hkeys, -⟩
  · exact absurd hr (hrows row hm)
  · exact hkeys

section

variable (d : Decoded)

@[simp] theorem dispatchJalr_ne_illegalInstruction : dispatchJalr d ≠ .error .illegalInstruction :=
  firstMatch_ne (by simp) (by simp)

@[simp] theorem dispatchBranch_ne_illegalInstruction : dispatchBranch d ≠ .error .illegalInstruction :=
  firstMatch_ne (by simp) (by simp)

@[simp] theorem dispatchLoad_ne_illegalInstruction : dispatchLoad d ≠ .error .illegalInstruction :=
  firstMatch_ne (by simp) (by simp)

@[simp] theorem dispatchStore_ne_illegalInstruction : dispatchStore d ≠ .error .illegalInstruction :=
  firstMatch_ne (by simp) (by simp)

@[simp] theorem dispatchOpImm_ne_illegalInstruction : dispatchOpImm d ≠ .error .illegalInstruction :=
  firstMatch_ne (by simp) (by simp [firstMatch_ne, -firstMatch_cons])

@[simp] theorem dispatchOp_ne_illegalInstruction : dispatchOp d ≠ .error .illegalInstruction :=
  firstMatch_ne (by simp) (by simp [firstMatch_ne, -firstMatch_cons])

@[simp] theorem dispatchFences_ne_illegalInstruction : dispatchFences d ≠ .error .illegalInstruction :=
  firstMatch_ne (by simp) (by simp)

@[simp] theorem dispatchSystem_ne_illegalInstruction (w : Word) :
    dispatchSystem d w ≠ .error .illegalInstruction :=
  firstMatch_ne (by simp) (by simp [firstMatch_ne, -firstMatch_cons])

end

/-- Illegal words are exactly those whose opcode is none of the eleven: no row of the primary table has this verdict, so
it is given only as the default. -/
theorem decode_eq_illegalInstruction_iff (w : Word) :
    decode w = .error .illegalInstruction ↔ opcodeOf w ∉ groupOpcodes := by
  rw [decode, dispatch, firstMatch_eq_dflt_iff (by simp)]
  simp [groupOpcodes]

/-- Settles O4: the words by `decode_eq_illegalInstruction_iff`, the 117 by counting over the 128 opcodes. -/
theorem illegalInstructionExactlyOffTheDispatchTable :
    Obligations.IllegalInstructionExactlyOffTheDispatchTable :=
  ⟨decode_eq_illegalInstruction_iff, rfl⟩

end Sys2Proof
end

section
/-! The step and its outcomes (spec 40_pipeline_control.md): a Running block always answers a next state. -/

namespace Sys2Proof.Machine

variable {s : State}

/-- A Halted block makes no transition (R135). -/
theorem step_of_halted (h : s.run = .halted) : step s = .fault .halted := by
  simp only [step, h]

/-- Every step of a Running block answers a next state: a fetch out of range and a rejected word are disposed of, and
every instruction executes to a next state (R130 to R132, R139). -/
theorem exists_step_eq_next (h : s.run = .running) : ∃ t, step s = .next t := by
  cases hp : s.inRange s.pc .word with
  | false => exact ⟨_, step_of_fetchOutOfRange h hp⟩
  | true =>
    cases hd : decode s.nextWord with
    | error e => exact ⟨_, step_of_rejected h hp hd⟩
    | ok i =>
      obtain ⟨t, ht, -⟩ := exec_effect i s.fetch.stage
      exact ⟨t, (step_of_aboutToRun ⟨h, hp, hd⟩).trans ht⟩

end Sys2Proof.Machine

namespace Sys2Proof

open Machine

/-- Settles O20: a Halted block faults; a Running one answers a next state, and every step that does leaves a result. -/
theorem runningStepsReturnAResult : Obligations.RunningStepsReturnAResult := by
  intro s
  cases hr : s.run with
  | halted => simp [step_of_halted hr]
  | running =>
    obtain ⟨t, ht⟩ := exists_step_eq_next hr
    obtain ⟨r, hresult⟩ := Option.isSome_iff_exists.1 (hasStepped_of_step ht)
    simp [ht, hresult]

end Sys2Proof
end

section
/-! LUI (spec 41_upper_immediate.md R150): the upper immediate as a number, and the effect of a step of LUI. -/

namespace Sys2Proof

/-- imm_U is `word[31:12]` with 12 zero bits below it; `word[31:12]` reaches the top of the word (R86). -/
theorem toNat_immUOf (w : Word) : (immUOf w).toNat = w.toNat / 4096 * 4096 := by
  rw [immUOf, Machine.toNat_append_eq_add, toNat_extractLsb'_eq_div_mod, BitVec.toNat_zero]
  omega

end Sys2Proof

namespace Sys2Proof.Machine

variable {s t : State} {rd : RegIdx} {imm v : Word}

/-- A register write of the execute phase is one of the whole step: fetch and decode change no register. -/
theorem WritesReg.of_stage (h : WritesReg s.fetch.stage t rd v) : WritesReg s t rd v := fun r => by
  rw [h r, State.stage_cfg, State.fetch_cfg, s.stage_keeps.1 r]

theorem exec_lui (rd : RegIdx) (imm : Word) (s : State) : exec (.lui rd imm) s = .next (s.writeAndCommit rd imm) := rfl

/-- A step of LUI writes its immediate to `rd` and advances PC by 4: NextPC is the one decode stages, which LUI leaves. -/
theorem step_lui (h : s.AboutToRun (.lui rd imm)) :
    ∃ t, step s = .next t ∧ WritesReg s t rd imm ∧ t.pc = s.pc + 4#32 := by
  obtain ⟨hreg, -, -, -, hpc, -⟩ := s.fetch.stage.writeAndCommit_effect rd imm
  exact ⟨_, (step_of_aboutToRun h).trans (exec_lui ..), hreg.of_stage, hpc⟩

end Sys2Proof.Machine

namespace Sys2Proof

open Machine

/-- Settles O39: the encoding by the value of imm_U, the effect by that of a write and commit, in `exec` and in a step. -/
theorem luiWritesTheUpperImmediate : Obligations.LuiWritesTheUpperImmediate := by
  refine ⟨fun w h => ?_, fun s rd imm => ⟨?_, step_lui⟩⟩
  · rw [decode_lui h, ← toNat_immUOf, BitVec.ofNat_toNat, BitVec.setWidth_eq]
  · exact ⟨_, exec_lui rd imm s, s.writeAndCommit_effect rd imm⟩

end Sys2Proof
end

section
/-! Results and traps (spec 60_exceptions.md): the result an instruction reports, and which steps report a trap. -/

namespace Sys2Proof.Machine

variable {s t : State} {i j : Instr}

/-- The instruction that raises a trap (R293, R294). -/
def TrapKind.instr : TrapKind → Instr
  | .ecall => .ecall
  | .ebreak => .ebreak

@[simp] theorem dataAccess_trapInstr (k : TrapKind) (s : State) : dataAccess s k.instr = none := by
  cases k <;> rfl

/-- The results an instruction can report (R130, R133, R134): its trap, the result of its data access, or Continued. -/
inductive ExecResult (s : State) (i : Instr) : StepResult → Prop where
  | trap (k : TrapKind) : i = k.instr → ExecResult s i (.trapped k)
  | access (a : Word) (w : Width) : dataAccess s i = some (a, w) → ExecResult s i (s.accessResult a w)
  | continued : dataAccess s i = none → (∀ k : TrapKind, i ≠ k.instr) → ExecResult s i .continued

/-- An instruction's result is the one of its kind: the two traps, the eight loads and stores, and all others. -/
theorem exists_execResult_of_exec (h : exec i s = .next t) : ∃ r, t.result = some r ∧ ExecResult s i r := by
  cases i
  case ecall => cases h; exact ⟨_, rfl, .trap .ecall rfl⟩
  case ebreak => cases h; exact ⟨_, rfl, .trap .ebreak rfl⟩
  case lb | lh | lw | lbu | lhu | sb | sh | sw => cases h; exact ⟨_, rfl, .access _ _ rfl⟩
  all_goals
    cases h
    exact ⟨_, rfl, .continued rfl fun k => by cases k <;> simp [TrapKind.instr]⟩

/-- A data access reports no trap (R133). -/
theorem State.accessResult_ne_trapped (s : State) (a : Word) (w : Width) (k : TrapKind) :
    s.accessResult a w ≠ .trapped k := by
  unfold State.accessResult
  split <;> simp

/-- A trap is reported exactly by its own instruction. -/
theorem ExecResult.trapped_iff {r : StepResult} (h : ExecResult s i r) (k : TrapKind) :
    r = .trapped k ↔ i = k.instr := by
  cases h with
  | trap k' hi => subst hi; cases k <;> cases k' <;> simp [TrapKind.instr]
  | access a w ha =>
    refine iff_of_false (s.accessResult_ne_trapped a w k) ?_
    rintro rfl
    simp at ha
  | continued _ hi => exact iff_of_false (by simp) (hi k)

/-- At most one instruction is about to run: the word at PC decodes to one. -/
theorem State.AboutToRun.iff_eq (h : s.AboutToRun i) : s.AboutToRun j ↔ i = j := by
  refine ⟨fun hj => ?_, fun hij => hij ▸ h⟩
  obtain ⟨-, -, hi⟩ := h
  obtain ⟨-, -, hj⟩ := hj
  exact Except.ok.inj (hi.symm.trans hj)

/-- A step reports a trap exactly when the trap's instruction was about to run: a disposed step reports an error and had
no instruction to run, an executed one reports the result of its instruction (R130 to R134). -/
theorem trapped_iff_of_step (h : step s = .next t) (k : TrapKind) :
    t.result = some (.trapped k) ↔ s.AboutToRun k.instr := by
  obtain ⟨-, hc⟩ := step_cases h
  cases hc with
  | fetchOutOfRange hp ht => subst ht; simp [hp]
  | rejected e _ hd ht => subst ht; simp [hd]
  | executed i ha he =>
    obtain ⟨r, hr, hres⟩ := exists_execResult_of_exec he
    rw [hr, Option.some_inj, hres.trapped_iff k, ha.iff_eq]

end Sys2Proof.Machine

namespace Sys2Proof

open Machine

/-- Settles O24: the two kinds of `trapped_iff_of_step`. -/
theorem trapsOnlyFromEcallAndEbreak : Obligations.TrapsOnlyFromEcallAndEbreak := fun _ _ h =>
  ⟨trapped_iff_of_step h .ecall, trapped_iff_of_step h .ebreak⟩

end Sys2Proof
end

section
/-! The encoding's round trips (spec 30_encoding.md sections 1 to 4): every field of an encoded instruction is read back,
and every word that decodes is put together again from its fields. -/

namespace Sys2Proof

/-! ## Immediates read back from their own word (R83 to R87, R89) -/

theorem extractLsb'_zero_eq_setWidth (imm : Word) (n : Nat) : imm.extractLsb' 0 n = imm.setWidth n := by
  apply BitVec.eq_of_toNat_eq
  simp

section

variable {imm : Word} {rs1 rs2 rd : RegIdx} {f3 : BitVec 3} {op : BitVec 7}

theorem immI_encodeI (h : fitsSigned12 imm = true) : (rawI (encodeI imm rs1 f3 rd op)).signExtend 32 = imm := by
  rw [encodeI, rawI_encodeRawI, extractLsb'_zero_eq_setWidth, signExtend_of_fitsSigned12 h]

theorem immB_encodeB (h : fitsBranch imm = true) : (rawB (encodeB imm rs2 rs1 f3 op)).signExtend 32 = imm := by
  obtain ⟨hsign, heven⟩ := signExtend_of_fitsBranch h
  rw [rawB_encodeB _ _ _ _ _ heven, hsign]

theorem immJ_encodeJ (h : fitsJump imm = true) : (rawJ (encodeJ imm rd op)).signExtend 32 = imm := by
  obtain ⟨hsign, heven⟩ := signExtend_of_fitsJump h
  rw [rawJ_encodeJ _ _ _ heven, hsign]

theorem zimm_of_fitsZimm (h : fitsZimm imm = true) : (imm.extractLsb' 0 5).setWidth 32 = imm := by
  rw [extractLsb'_zero_eq_setWidth, setWidth_of_fitsZimm h]

@[simp] theorem opcodeOf_encodeI : opcodeOf (encodeI imm rs1 f3 rd op) = op := opcodeOf_encodeRawI ..
@[simp] theorem rdOf_encodeI : rdOf (encodeI imm rs1 f3 rd op) = rd := rdOf_encodeRawI ..
@[simp] theorem funct3Of_encodeI : funct3Of (encodeI imm rs1 f3 rd op) = f3 := funct3Of_encodeRawI ..
@[simp] theorem rs1Of_encodeI : rs1Of (encodeI imm rs1 f3 rd op) = rs1 := rs1Of_encodeRawI ..

end

/-! ## From an instruction to its word and back -/

/-- A well-formed instruction's opcode picks its group, its funct3 and funct7 its row, and its operands are read back from
its own format's fields. -/
theorem decode_encode {i : Instr} (h : i.wf = true) : decode (encode i) = .ok i := by
  cases i
  case lui | auipc => simp [encode, decode, dispatch, immUOf_encodeU _ _ _ h]
  case jal => simp [encode, decode, dispatch, immJ_encodeJ h]
  case jalr => simp [encode, decode_jalr, dispatchJalr, immI_encodeI h]
  case beq | bne | blt | bge | bltu | bgeu => simp [encode, decode_branch, dispatchBranch, immB_encodeB h]
  case lb | lh | lw | lbu | lhu => simp [encode, decode_load, dispatchLoad, immI_encodeI h]
  case sb | sh | sw => simp [encode, decode_store, dispatchStore, signExtend_of_fitsSigned12 h]
  case addi | slti | sltiu | xori | ori | andi => simp [encode, decode_opImm, dispatchOpImm, immI_encodeI h]
  case slli | srli | srai => simp [encode, decode_opImm, dispatchOpImm]
  case add | sub | sll | slt | sltu | xor | srl | sra | or | and => simp [encode, decode_op, dispatchOp]
  case fence | fenceI => simp [encode, decode_fences, dispatchFences]
  case ecall | ebreak => rfl
  case csrrw | csrrs | csrrc => simp [encode, decode_system, dispatchSystem]
  case csrrwi | csrrsi | csrrci => simp [encode, decode_system, dispatchSystem, zimm_of_fitsZimm h]

/-- Settles O6: the round trip from an instruction through its word. -/
theorem decodeOfEncodeIsTheInstruction : Obligations.DecodeOfEncodeIsTheInstruction := fun _ => decode_encode

/-! ## From a word to its instruction and back -/

section

variable {w : Word} {f3 : BitVec 3} {f7 op : BitVec 7}

theorem encodeR_of_fields (h7 : funct7Of w = f7) (h3 : funct3Of w = f3) (ho : opcodeOf w = op) :
    encodeR f7 (rs2Of w) (rs1Of w) f3 (rdOf w) op = w := by
  rw [← h7, ← h3, ← ho, encodeR_fields]

theorem encodeRawI_of_fields (h3 : funct3Of w = f3) (ho : opcodeOf w = op) :
    encodeRawI (rawI w) (rs1Of w) f3 (rdOf w) op = w := by
  rw [← h3, ← ho, encodeRawI_fields]

theorem encodeI_of_fields (h3 : funct3Of w = f3) (ho : opcodeOf w = op) :
    encodeI ((rawI w).signExtend 32) (rs1Of w) f3 (rdOf w) op = w := by
  rw [← h3, ← ho, encodeI_fields]

theorem encodeS_of_fields (h3 : funct3Of w = f3) (ho : opcodeOf w = op) :
    encodeS ((rawS w).signExtend 32) (rs2Of w) (rs1Of w) f3 op = w := by
  rw [← h3, ← ho, encodeS_fields]

theorem encodeB_of_fields (h3 : funct3Of w = f3) (ho : opcodeOf w = op) :
    encodeB ((rawB w).signExtend 32) (rs2Of w) (rs1Of w) f3 op = w := by
  rw [← h3, ← ho, encodeB_fields]

/-- The verdict names only well-formed instructions whose word is `w`. -/
def Reencodes (w : Word) (verdict : Except DecodeError Instr) : Prop :=
  ∀ i, verdict = .ok i → i.wf = true ∧ encode i = w

@[simp] theorem reencodes_error (w : Word) (e : DecodeError) : Reencodes w (.error e) := by
  simp [Reencodes]

@[simp] theorem reencodes_ok (w : Word) (i : Instr) : Reencodes w (.ok i) ↔ i.wf = true ∧ encode i = w := by
  simp [Reencodes]

/-- A table's verdict names the word's instruction when the default does and every row with the key does. -/
theorem reencodes_firstMatch {n : Nat} {key : BitVec n} {dflt : Except DecodeError Instr}
    {rows : List (BitVec n × Except DecodeError Instr)} (hdflt : Reencodes w dflt)
    (hrows : ∀ row ∈ rows, key = row.1 → Reencodes w row.2) : Reencodes w (firstMatch key dflt rows) := by
  intro i hi
  rcases firstMatch_cases hi with ⟨row, hm, hk, hv⟩ | ⟨-, hd⟩
  · exact hrows row hm hk i hv
  · exact hdflt i hd

theorem reencodes_dispatchJalr (ho : opcodeOf w = 0x67#7) : Reencodes w (dispatchJalr (decodeFields w)) := by
  refine reencodes_firstMatch (reencodes_error _ _) ?_
  simp +contextual [Instr.wf, encode, fitsSigned12_signExtend, encodeI_of_fields, ho]

theorem reencodes_dispatchBranch (ho : opcodeOf w = 0x63#7) : Reencodes w (dispatchBranch (decodeFields w)) := by
  refine reencodes_firstMatch (reencodes_error _ _) ?_
  simp +contextual [Instr.wf, encode, fitsBranch_rawB, encodeB_of_fields, ho]

theorem reencodes_dispatchLoad (ho : opcodeOf w = 0x03#7) : Reencodes w (dispatchLoad (decodeFields w)) := by
  refine reencodes_firstMatch (reencodes_error _ _) ?_
  simp +contextual [Instr.wf, encode, fitsSigned12_signExtend, encodeI_of_fields, ho]

theorem reencodes_dispatchStore (ho : opcodeOf w = 0x23#7) : Reencodes w (dispatchStore (decodeFields w)) := by
  refine reencodes_firstMatch (reencodes_error _ _) ?_
  simp +contextual [Instr.wf, encode, fitsSigned12_signExtend, encodeS_of_fields, ho]

theorem reencodes_dispatchOpImm (ho : opcodeOf w = 0x13#7) : Reencodes w (dispatchOpImm (decodeFields w)) := by
  refine reencodes_firstMatch (reencodes_error _ _) ?_
  simp +contextual [Instr.wf, encode, fitsSigned12_signExtend, encodeI_of_fields, encodeR_of_fields,
    reencodes_firstMatch, -firstMatch_cons, ho]

theorem reencodes_dispatchOp (ho : opcodeOf w = 0x33#7) : Reencodes w (dispatchOp (decodeFields w)) := by
  refine reencodes_firstMatch (reencodes_error _ _) ?_
  simp +contextual [Instr.wf, encode, encodeR_of_fields, reencodes_firstMatch, -firstMatch_cons, ho]

theorem reencodes_dispatchFences (ho : opcodeOf w = 0x0F#7) : Reencodes w (dispatchFences (decodeFields w)) := by
  refine reencodes_firstMatch (reencodes_error _ _) ?_
  simp +contextual [Instr.wf, encode, encodeRawI_of_fields, ho]

theorem reencodes_dispatchSystem (ho : opcodeOf w = 0x73#7) : Reencodes w (dispatchSystem (decodeFields w) w) := by
  refine reencodes_firstMatch (reencodes_error _ _) ?_
  simp +contextual [Instr.wf, encode, fitsZimm_setWidth, zimm_field, encodeRawI_of_fields, reencodes_firstMatch,
    -firstMatch_cons, ho]

end

/-- The primary table hands a word to the group of its opcode, and each group's rows keep every bit of it. -/
theorem reencodes_decode (w : Word) : Reencodes w (decode w) := by
  rcases opcode_cases (opcodeOf w) with h | h | h | h | h | h | h | h | h | h | h | h
  · rw [decode_lui h, reencodes_ok]
    exact ⟨fitsUpper_immUOf w, by rw [encode, ← h, encodeU_fields]⟩
  · rw [decode_auipc h, reencodes_ok]
    exact ⟨fitsUpper_immUOf w, by rw [encode, ← h, encodeU_fields]⟩
  · rw [decode_jal h, reencodes_ok]
    exact ⟨fitsJump_rawJ w, by rw [encode, ← h, encodeJ_fields]⟩
  · exact decode_jalr h ▸ reencodes_dispatchJalr h
  · exact decode_branch h ▸ reencodes_dispatchBranch h
  · exact decode_load h ▸ reencodes_dispatchLoad h
  · exact decode_store h ▸ reencodes_dispatchStore h
  · exact decode_opImm h ▸ reencodes_dispatchOpImm h
  · exact decode_op h ▸ reencodes_dispatchOp h
  · exact decode_fences h ▸ reencodes_dispatchFences h
  · exact decode_system h ▸ reencodes_dispatchSystem h
  · exact decode_other h ▸ reencodes_error _ _

/-- Settles O7: the round trip from a word through its instruction. -/
theorem encodeOfDecodeIsTheWord : Obligations.EncodeOfDecodeIsTheWord := reencodes_decode

end Sys2Proof
end

section
/-! What the decoder answers (spec 30_encoding.md sections 2 and 4): the scattered immediates as numbers, the opcode
table's masks, and the reserved words. -/

namespace Sys2Proof

/-! ## The scattered immediates as numbers (R84 to R87) -/

theorem toNat_rawS (w : Word) : (rawS w).toNat = w.toNat / 2 ^ 25 * 32 + w.toNat / 2 ^ 7 % 32 := by
  simp only [rawS, Machine.toNat_append_eq_add, toNat_extractLsb'_eq_div_mod]
  omega

theorem toNat_rawB (w : Word) : (rawB w).toNat = w.toNat / 2 ^ 31 * 4096 + w.toNat / 2 ^ 7 % 2 * 2048 +
    w.toNat / 2 ^ 25 % 64 * 32 + w.toNat / 2 ^ 8 % 16 * 2 := by
  simp only [rawB, Machine.toNat_append_eq_add, toNat_extractLsb'_eq_div_mod, BitVec.toNat_ofNat]
  omega

theorem toNat_rawJ (w : Word) : (rawJ w).toNat = w.toNat / 2 ^ 31 * 2 ^ 20 + w.toNat / 2 ^ 12 % 256 * 4096 +
    w.toNat / 2 ^ 20 % 2 * 2048 + w.toNat / 2 ^ 21 % 1024 * 2 := by
  simp only [rawJ, Machine.toNat_append_eq_add, toNat_extractLsb'_eq_div_mod, BitVec.toNat_ofNat]
  omega

/-- Settles O2: each raw field is the sum of its weighted parts; sign extension reads it as two's complement, and zero
extension keeps it. -/
theorem decoderAssemblesOtherImmediates : Obligations.DecoderAssemblesOtherImmediates := by
  intro w
  have hS := toInt_signExtend_eq_signedValue (rawS w) (by decide) (by decide)
  have hB := toInt_signExtend_eq_signedValue (rawB w) (by decide) (by decide)
  have hJ := toInt_signExtend_eq_signedValue (rawJ w) (by decide) (by decide)
  have hz {n : Nat} (v : BitVec n) (hn : n ≤ 32) : (v.setWidth 32).toNat = v.toNat := BitVec.toNat_setWidth_of_le hn
  have hSz := hz (rawS w) (by decide)
  have hBz := hz (rawB w) (by decide)
  have hJz := hz (rawJ w) (by decide)
  have hzimm := (hz (rs1Of w) (by decide)).trans (toNat_extractLsb'_eq_div_mod w 15 5)
  rw [toNat_rawS] at hS hSz
  rw [toNat_rawB] at hB hBz
  rw [toNat_rawJ] at hJ hJz
  exact ⟨hS, hSz, hB, hBz, toNat_immUOf w, hJ, hJz, toNat_rawI w, hzimm⟩

/-! ## The reserved words (R94)

A group answers its table's default for the keys that have no row. Where funct3 is the only key, the values without a row
are found among the eight. -/

section

variable {w : Word}

theorem dispatchJalr_reserved_iff (ho : opcodeOf w = 0x67#7) :
    dispatchJalr (decodeFields w) = .error .unknownSubopcode ↔ reservedWord w := by
  simp [dispatchJalr, reservedWord, ho]

theorem dispatchBranch_reserved_iff (ho : opcodeOf w = 0x63#7) :
    dispatchBranch (decodeFields w) = .error .unknownSubopcode ↔ reservedWord w := by
  rcases funct3_cases (funct3Of w) with h | h | h | h | h | h | h | h <;> simp [dispatchBranch, reservedWord, ho, h]

theorem dispatchLoad_reserved_iff (ho : opcodeOf w = 0x03#7) :
    dispatchLoad (decodeFields w) = .error .unknownSubopcode ↔ reservedWord w := by
  rcases funct3_cases (funct3Of w) with h | h | h | h | h | h | h | h <;> simp [dispatchLoad, reservedWord, ho, h]

theorem dispatchStore_reserved_iff (ho : opcodeOf w = 0x23#7) :
    dispatchStore (decodeFields w) = .error .unknownSubopcode ↔ reservedWord w := by
  rcases funct3_cases (funct3Of w) with h | h | h | h | h | h | h | h <;> simp [dispatchStore, reservedWord, ho, h]

theorem dispatchFences_reserved_iff (ho : opcodeOf w = 0x0F#7) :
    dispatchFences (decodeFields w) = .error .unknownSubopcode ↔ reservedWord w := by
  rcases funct3_cases (funct3Of w) with h | h | h | h | h | h | h | h <;> simp [dispatchFences, reservedWord, ho, h]

/-- Only the shift immediates, funct3 1 and 5, look at funct7 (D12). -/
theorem dispatchOpImm_reserved_iff (ho : opcodeOf w = 0x13#7) :
    dispatchOpImm (decodeFields w) = .error .unknownSubopcode ↔ reservedWord w := by
  by_cases h7 : funct7Of w = 0#7
  · rcases funct3_cases (funct3Of w) with h | h | h | h | h | h | h | h <;>
      simp [dispatchOpImm, reservedWord, ho, h, h7]
  · by_cases h7' : funct7Of w = 0b0100000#7 <;>
      rcases funct3_cases (funct3Of w) with h | h | h | h | h | h | h | h <;>
      simp [dispatchOpImm, reservedWord, ho, h, h7, h7']

/-- Every row has funct7 0, and those of funct3 0 and 5 a second one with 0100000 (D12). -/
theorem dispatchOp_reserved_iff (ho : opcodeOf w = 0x33#7) :
    dispatchOp (decodeFields w) = .error .unknownSubopcode ↔ reservedWord w := by
  by_cases h7 : funct7Of w = 0#7
  · rcases funct3_cases (funct3Of w) with h | h | h | h | h | h | h | h <;>
      simp [dispatchOp, reservedWord, ho, h, h7]
  · by_cases h7' : funct7Of w = 0b0100000#7 <;>
      rcases funct3_cases (funct3Of w) with h | h | h | h | h | h | h | h <;>
      simp [dispatchOp, reservedWord, ho, h, h7, h7']

/-- With funct3 0 the whole word is the key of the two environment calls (D15); of the other values 4 has no row. -/
theorem dispatchSystem_reserved_iff (ho : opcodeOf w = 0x73#7) :
    dispatchSystem (decodeFields w) w = .error .unknownSubopcode ↔ reservedWord w := by
  rcases funct3_cases (funct3Of w) with h | h | h | h | h | h | h | h
  · rw [dispatchSystem, firstMatch_cons, if_pos (by simpa using h), firstMatch_eq_dflt_iff (by simp)]
    simp [reservedWord, ho, h]
  all_goals simp [dispatchSystem, reservedWord, ho, h]

end

/-- The groups of the primary table reject exactly the words R94 lists under their opcode. -/
theorem decode_eq_unknownSubopcode_iff (w : Word) : decode w = .error .unknownSubopcode ↔ reservedWord w := by
  rcases opcode_cases (opcodeOf w) with h | h | h | h | h | h | h | h | h | h | h | h
  · simp [decode_lui h, reservedWord, h]
  · simp [decode_auipc h, reservedWord, h]
  · simp [decode_jal h, reservedWord, h]
  · rw [decode_jalr h, dispatchJalr_reserved_iff h]
  · rw [decode_branch h, dispatchBranch_reserved_iff h]
  · rw [decode_load h, dispatchLoad_reserved_iff h]
  · rw [decode_store h, dispatchStore_reserved_iff h]
  · rw [decode_opImm h, dispatchOpImm_reserved_iff h]
  · rw [decode_op h, dispatchOp_reserved_iff h]
  · rw [decode_fences h, dispatchFences_reserved_iff h]
  · rw [decode_system h, dispatchSystem_reserved_iff h]
  · simp only [List.mem_cons, List.not_mem_nil, or_false, not_or] at h
    simp [decode_other, reservedWord, h]

/-- Settles O5, group by group of the primary table. -/
theorem unknownSubopcodeExactlyTheReservedWords : Obligations.UnknownSubopcodeExactlyTheReservedWords :=
  decode_eq_unknownSubopcode_iff

/-- Settles O9: all these words are on R94's list. SFENCE.VMA's funct7 keeps its words apart from ECALL and EBREAK. -/
theorem privilegedAndMultiplyWordsRejected : Obligations.PrivilegedAndMultiplyWordsRejected := by
  refine ⟨?_, fun w ho h3 h7 => ?_, fun w ho h7 => ?_⟩
  · simp [decode_eq_unknownSubopcode_iff, reservedWord, opcodeOf, funct3Of]
  · have hecall : w ≠ 0x00000073#32 := by rintro rfl; revert h7; decide
    have hebreak : w ≠ 0x00100073#32 := by rintro rfl; revert h7; decide
    simp [decode_eq_unknownSubopcode_iff, reservedWord, ho, h3, hecall, hebreak]
  · simp [decode_eq_unknownSubopcode_iff, reservedWord, ho, h7]

/-- Settles O8, by running the decoder on the nine words. -/
theorem specWordsDecode : Obligations.SpecWordsDecode := by
  unfold Obligations.SpecWordsDecode
  decide

/-! ## The opcode table (R93) -/

section

variable (w : Word)

/-- The mask of a row keyed by the opcode keeps the opcode only. -/
theorem and_opcodeMask : w &&& 0x0000007F#32 = encodeR 0#7 0#5 0#5 0#3 0#5 (opcodeOf w) := by
  apply BitVec.eq_of_getLsbD_eq
  intro i hi
  simp only [encodeR, opcodeOf, BitVec.getLsbD_and, BitVec.getLsbD_extractLsb', BitVec.getLsbD_append]
  interval_cases i <;> simp

/-- The mask of a row keyed by opcode and funct3 keeps these two. -/
theorem and_funct3Mask : w &&& 0x0000707F#32 = encodeR 0#7 0#5 0#5 (funct3Of w) 0#5 (opcodeOf w) := by
  apply BitVec.eq_of_getLsbD_eq
  intro i hi
  simp only [encodeR, funct3Of, opcodeOf, BitVec.getLsbD_and, BitVec.getLsbD_extractLsb', BitVec.getLsbD_append]
  interval_cases i <;> simp

/-- The mask of a row keyed by opcode, funct3 and funct7 keeps these three. -/
theorem and_funct7Mask :
    w &&& 0xFE00707F#32 = encodeR (funct7Of w) 0#5 0#5 (funct3Of w) 0#5 (opcodeOf w) := by
  apply BitVec.eq_of_getLsbD_eq
  intro i hi
  simp only [encodeR, funct7Of, funct3Of, opcodeOf, BitVec.getLsbD_and, BitVec.getLsbD_extractLsb',
    BitVec.getLsbD_append]
  interval_cases i <;> simp

variable {w}

/-- The keys that a row's match gives its words. -/
theorem keys_of_encodeR_eq {f7 op : BitVec 7} {f3 : BitVec 3} {m : Word}
    (h : encodeR f7 0#5 0#5 f3 0#5 op = m) :
    op = m.extractLsb' 0 7 ∧ f3 = m.extractLsb' 12 3 ∧ f7 = m.extractLsb' 25 7 := by
  subst h
  exact ⟨(opcodeOf_encodeR ..).symm, (funct3Of_encodeR ..).symm, (funct7Of_encodeR ..).symm⟩

/-- The table's row for an instruction: the instruction's word matches it, and every word that matches it decodes to an
instruction of the same name, since the mask keeps all the keys that dispatch reads on the way to that name. -/
def IsRowOf (i : Instr) (row : Word × Word × String) : Prop :=
  opcodeTable.find? (fun r => r.2.2 == i.mnemonic) = some row ∧ encode i &&& row.2.1 = row.1 ∧
    ∀ w : Word, w &&& row.2.1 = row.1 → ∃ j, decode w = .ok j ∧ j.mnemonic = i.mnemonic

theorem exists_isRowOf (i : Instr) : ∃ row, IsRowOf i row := by
  cases i
  case lui | auipc | jal =>
    refine ⟨_, rfl, ?_, fun w h => ?_⟩
    · simp only [encode, and_opcodeMask, opcodeOf_encodeU, opcodeOf_encodeJ]
      rfl
    · obtain ⟨ho, -⟩ := keys_of_encodeR_eq ((and_opcodeMask w).symm.trans h)
      simp [decode, dispatch, ho, Instr.mnemonic]
  case jalr | beq | bne | blt | bge | bltu | bgeu | lb | lh | lw | lbu | lhu | sb | sh | sw | addi | slti | sltiu | xori |
      ori | andi | fence | fenceI | csrrw | csrrs | csrrc | csrrwi | csrrsi | csrrci =>
    refine ⟨_, rfl, ?_, fun w h => ?_⟩
    · simp only [encode, and_funct3Mask, opcodeOf_encodeI, funct3Of_encodeI, opcodeOf_encodeS, funct3Of_encodeS,
        opcodeOf_encodeB, funct3Of_encodeB, opcodeOf_encodeRawI, funct3Of_encodeRawI]
      rfl
    · obtain ⟨ho, h3, -⟩ := keys_of_encodeR_eq ((and_funct3Mask w).symm.trans h)
      simp [decode, dispatch, ho, h3, dispatchJalr, dispatchBranch, dispatchLoad, dispatchStore, dispatchOpImm,
        dispatchFences, dispatchSystem, Instr.mnemonic]
  case slli | srli | srai | add | sub | sll | slt | sltu | xor | srl | sra | or | and =>
    refine ⟨_, rfl, ?_, fun w h => ?_⟩
    · simp only [encode, and_funct7Mask, opcodeOf_encodeR, funct3Of_encodeR, funct7Of_encodeR]
      rfl
    · obtain ⟨ho, h3, h7⟩ := keys_of_encodeR_eq ((and_funct7Mask w).symm.trans h)
      simp [decode, dispatch, ho, h3, h7, dispatchOpImm, dispatchOp, Instr.mnemonic]
  case ecall | ebreak =>
    refine ⟨_, rfl, by decide, fun w h => ?_⟩
    have hw : w = _ := (BitVec.and_allOnes).symm.trans h
    subst hw
    exact ⟨_, rfl, rfl⟩

end

theorem mnemonics_of_rows : ∀ row ∈ opcodeTable, (decode row.1).toOption.map Instr.mnemonic = some row.2.2 := by
  decide

theorem row_eq_of_mnemonic_eq : ∀ row ∈ opcodeTable, ∀ row' ∈ opcodeTable, row.2.2 = row'.2.2 → row = row' := by
  decide

/-- A row of the table is the row of every instruction with its name: names are not repeated. -/
theorem isRowOf_of_mnemonic_eq {row : Word × Word × String} {i : Instr} (hrow : row ∈ opcodeTable)
    (h : i.mnemonic = row.2.2) : IsRowOf i row := by
  obtain ⟨row', hrow'⟩ := exists_isRowOf i
  obtain ⟨hfind, -⟩ := id hrow'
  have hname : row'.2.2 = i.mnemonic := by simpa using List.find?_some hfind
  rwa [row_eq_of_mnemonic_eq row hrow row' (List.mem_of_find?_eq_some hfind) (h.symm.trans hname.symm)]

/-- Settles O3: a word that matches decodes to the row's name because the mask keeps the keys; one that decodes to the name
is the encoding of the instruction, which matches. -/
theorem decodeFollowsTheOpcodeTable : Obligations.DecodeFollowsTheOpcodeTable := by
  refine ⟨fun w row hrow => ⟨fun h => ?_, ?_⟩, fun i => ?_⟩
  · obtain ⟨i, -, hi⟩ := Option.map_eq_some_iff.1 (mnemonics_of_rows row hrow)
    obtain ⟨-, -, hdecode⟩ := isRowOf_of_mnemonic_eq hrow hi
    rw [← hi]
    exact hdecode w h
  · rintro ⟨i, hdecode, hi⟩
    obtain ⟨-, hmatch, -⟩ := isRowOf_of_mnemonic_eq hrow hi
    obtain ⟨-, hw⟩ := reencodes_decode w i hdecode
    rwa [← hw]
  · obtain ⟨row, hfind, -⟩ := exists_isRowOf i
    exact ⟨row, List.mem_of_find?_eq_some hfind, by simpa using List.find?_some hfind⟩

end Sys2Proof
end

section
/-! Wide writes seen by narrow accesses, and their frame (spec 20_memory.md sections 1, 2 and 4). -/

namespace Sys2Proof.Machine

variable {s : State} {a v : Word} {w : Width}

/-- A write leaves every byte outside its own (R56, R57). -/
theorem State.keepsMemOutside_memWrite (a : Word) (w : Width) (v : Word) (hm : s.mem.wf = true) :
    KeepsMemOutside s (s.memWrite a w v) a w.bytes := fun b hb => by
  rw [State.readByte_memWrite _ _ _ _ _ hm, if_neg fun h => hb h.2]

/-- Addresses inside an access that ends below 2^32 do not wrap (R53). -/
theorem toNat_add_offset {k : Nat} (h : a.toNat + k < 2 ^ 32) : (a + BitVec.ofNat 32 k).toNat = a.toNat + k := by
  rw [BitVec.toNat_add, BitVec.toNat_ofNat, Nat.add_mod_mod, Nat.mod_eq_of_lt h]

/-- Byte `j` above `a + k` is byte `k + j` above `a`. -/
theorem State.byteVal_add_offset {k : Nat} (s : State) (j : Nat) (h : a.toNat + k < 2 ^ 32) :
    s.byteVal (a + BitVec.ofNat 32 k) j = s.byteVal a (k + j) := by
  rw [State.byteVal, State.byteVal, toNat_add_offset h, Nat.add_assoc]

/-- An access of `u` that lies inside an in-range word is in range and does not wrap. -/
theorem State.inRange_inside_word {k : Nat} {u : Width} (hc : s.cfg.wf = true) (h : a.toNat + 4 ≤ s.cfg.msize)
    (hk : k + u.bytes ≤ 4) (hu : 0 < u.bytes) :
    a.toNat + k < 2 ^ 32 ∧ s.inRange (a + BitVec.ofNat 32 k) u = true := by
  have hsize : s.cfg.msize ≤ 2 ^ 32 := by
    simp only [Config.wf, Bool.and_eq_true, decide_eq_true_eq] at hc
    exact hc.2
  have hlt : a.toNat + k < 2 ^ 32 := by omega
  exact ⟨hlt, (s.inRange_iff _ _).2 (by rw [toNat_add_offset hlt]; omega)⟩

end Sys2Proof.Machine

namespace Sys2Proof

open Machine

/-- Settles O13: `memWrite` updates the memory field only, inside its own bytes, and not at all out of range. -/
theorem writeChangesOnlyItsBytes : Obligations.WriteChangesOnlyItsBytes := by
  intro s a w v hm
  refine ⟨State.keepsMemOutside_memWrite a w v hm, keepsRegs_of_eq rfl rfl, ⟨rfl, rfl, rfl, rfl⟩, ⟨rfl, rfl⟩, rfl, rfl,
    rfl, fun h => ?_⟩
  obtain ⟨-, hsame, -⟩ := State.access_out_of_range v ((s.inRange_false_iff a w).2 h)
  exact keepsMem_of_eq (congrArg State.mem hsame)

/-- Settles O14: a narrow read inside the word gives the bytes that the write put there. -/
theorem narrowReadsSeeTheWordWritten : Obligations.NarrowReadsSeeTheWordWritten := by
  intro s a v hm hc h
  have hbyte : ∀ k < 4, (s.memWrite a .word v).byteVal a k = v.toNat / 256 ^ k % 256 := fun k hk =>
    State.byteVal_memWrite v hm ((s.inRange_iff a .word).2 h) hk
  refine ⟨fun k hk => ?_, fun k hk => ?_⟩
  · obtain ⟨hlt, hin⟩ := State.inRange_inside_word (s := s.memWrite a .word v) (u := .byte) hc h hk (by decide)
    rw [State.toNat_memRead_byte hin, State.byteVal_add_offset _ _ hlt, Nat.add_zero, hbyte k hk, Nat.pow_mul]
    rfl
  · obtain ⟨hlt, hin⟩ := State.inRange_inside_word (s := s.memWrite a .word v) (u := .half) hc h
      (show k + 2 ≤ 4 by omega) (by decide)
    rw [State.toNat_memRead_half hin, State.byteVal_add_offset _ _ hlt, State.byteVal_add_offset _ _ hlt,
      hbyte (k + 0) (by omega), hbyte (k + 1) (by omega)]
    interval_cases k <;> omega

end Sys2Proof
end

section
/-! The step (spec 40_pipeline_control.md sections 2 to 4, 60_exceptions.md): where PC goes, what is reported, when the
block halts, and what a step can write. -/

namespace Sys2Proof.Machine

variable {s t u : State} {i : Instr}

/-! ## What an instruction reads is the same before and after fetch and decode -/

theorem pcAfter_stage (s : State) (i : Instr) : pcAfter s.fetch.stage i = pcAfter s i := by
  cases i <;> rfl

theorem dataAccess_stage (s : State) (i : Instr) : dataAccess s.fetch.stage i = dataAccess s i := by
  cases i <;> rfl

theorem hookOf_stage (s : State) (i : Instr) : hookOf s.fetch.stage i = hookOf s i := by
  cases i <;> rfl

/-! ## PC (R27, R28) -/

section

variable (a b : Word)

/-! The six conditions on register values as numbers (R173 to R178). -/

@[simp] theorem holds_eq_iff : BranchCond.eq.holds a b = true ↔ a = b := by simp [BranchCond.holds]
@[simp] theorem holds_ne_iff : BranchCond.ne.holds a b = true ↔ a ≠ b := by simp [BranchCond.holds]

@[simp] theorem lessSigned_iff : lessSigned a b = true ↔ a.toInt < b.toInt := BitVec.slt_iff_toInt_lt
@[simp] theorem lessUnsigned_iff : lessUnsigned a b = true ↔ a.toNat < b.toNat := BitVec.ult_iff_toNat_lt

@[simp] theorem holds_lt_iff : BranchCond.lt.holds a b = true ↔ a.toInt < b.toInt := lessSigned_iff a b
@[simp] theorem holds_ltu_iff : BranchCond.ltu.holds a b = true ↔ a.toNat < b.toNat := lessUnsigned_iff a b

@[simp] theorem holds_ge_iff : BranchCond.ge.holds a b = true ↔ a.toInt ≥ b.toInt := by
  simp [BranchCond.holds, ← Bool.not_eq_true]

@[simp] theorem holds_geu_iff : BranchCond.geu.holds a b = true ↔ a.toNat ≥ b.toNat := by
  simp [BranchCond.holds, ← Bool.not_eq_true]

end

/-- A branch commits its target when its condition holds, else the staged NextPC (R172). -/
theorem branch_pc (c : BranchCond) (rs1 rs2 : RegIdx) (imm : Word) :
    (s.branch c rs1 rs2 imm).pc = if c.holds (s.readReg rs1) (s.readReg rs2) then s.pc + imm else s.nextPc := rfl

/-- Only the jumps and a taken branch override the default NextPC (R28). -/
theorem pc_of_exec (h : exec i s = .next t) (hnext : s.nextPc = s.pc + 4#32) : t.pc = pcAfter s i := by
  cases i
  case beq | bne | blt | bge | bltu | bgeu =>
    cases h
    simp [branch_pc, pcAfter, hnext]
  case jal | jalr => cases h; rfl
  all_goals
    cases h
    exact hnext

/-! ## Results (R320 to R326) -/

theorem State.accessResult_eq (s : State) (a : Word) (w : Width) :
    s.accessResult a w = if a.toNat + w.bytes > s.cfg.msize then .error .addressOutOfRange else .continued := by
  by_cases h : a.toNat + w.bytes ≤ s.cfg.msize
  · rw [if_neg (by omega), State.accessResult_of_inRange ((s.inRange_iff a w).2 h)]
  · obtain ⟨-, -, herror⟩ := State.access_out_of_range 0#32 ((s.inRange_false_iff a w).2 (by omega))
    rw [if_pos (by omega), herror]

/-- The bound of R53 for a fetch. -/
theorem State.fetch_inRange_iff (s : State) : s.inRange s.pc .word = true ↔ ¬s.pc.toNat + 4 > s.cfg.msize :=
  (s.inRange_iff _ _).trans Nat.not_lt.symm

theorem State.fetch_outOfRange_iff (s : State) : s.inRange s.pc .word = false ↔ s.pc.toNat + 4 > s.cfg.msize :=
  s.inRange_false_iff _ _

/-- The order of R326 comes down to the instruction's own result once a word was fetched and decoded. -/
theorem ExecResult.resultByPriority_eq {r : StepResult} (h : ExecResult s.fetch.stage i r) (ha : s.AboutToRun i) :
    resultByPriority s = r := by
  obtain ⟨-, hin, hd⟩ := ha
  rw [resultByPriority, if_neg (s.fetch_inRange_iff.1 hin), hd]
  cases h with
  | trap k hi => subst hi; cases k <;> rfl
  | access a w hacc =>
    rw [dataAccess_stage] at hacc
    rw [State.accessResult_eq]
    cases i <;> cases hacc <;> rfl
  | continued hacc hi =>
    rw [dataAccess_stage] at hacc
    cases i
    case ecall => exact absurd rfl (hi .ecall)
    case ebreak => exact absurd rfl (hi .ebreak)
    case lb | lh | lw | lbu | lhu | sb | sh | sw => cases hacc
    all_goals rfl

/-- The one result of a step is the one that R326's order gives. -/
theorem result_of_step (h : step s = .next t) : t.result = some (resultByPriority s) := by
  obtain ⟨-, hc⟩ := step_cases h
  cases hc with
  | fetchOutOfRange hp ht =>
    subst ht
    rw [resultByPriority, if_pos (s.fetch_outOfRange_iff.1 hp)]
    rfl
  | rejected e hp hd ht =>
    subst ht
    rw [resultByPriority, if_neg (s.fetch_inRange_iff.1 hp), hd]
    cases e <;> rfl
  | executed i ha he =>
    obtain ⟨r, hr, hres⟩ := exists_execResult_of_exec he
    rw [hr, hres.resultByPriority_eq ha]

/-- An execution reports no decode error. -/
theorem ExecResult.ne_illegalInstruction {r : StepResult} (h : ExecResult s i r) :
    r ≠ .error .illegalInstruction := by
  cases h with
  | trap | continued => simp
  | access a w => rw [State.accessResult_eq]; split <;> simp

/-! ## What a step writes (R23, R128) -/

/-- A step keeps the parameters, and writes either nothing, when it is disposed of, or what its instruction writes. -/
theorem writes_of_step (h : step s = .next t) :
    t.cfg = s.cfg ∧ ((t.regs = s.regs ∧ t.mem = s.mem) ∨ ∃ i, s.AboutToRun i ∧ Writes i s t) := by
  obtain ⟨-, hc⟩ := step_cases h
  cases hc with
  | fetchOutOfRange _ ht => subst ht; exact ⟨rfl, .inl ⟨rfl, rfl⟩⟩
  | rejected e _ _ ht => subst ht; exact ⟨rfl, .inl ⟨rfl, rfl⟩⟩
  | executed i ha he =>
    obtain ⟨t', ht', ⟨hcfg, -⟩, -, -, hw⟩ := exec_effect i s.fetch.stage
    cases he.symm.trans ht'
    exact ⟨hcfg, .inr ⟨i, ha, hw.of_stage⟩⟩

/-- What disposal leaves: `u` is the state after fetch, or after fetch and decode (R131, R132). -/
theorem dispose_outcome (k : ErrorKind) (hcfg : u.cfg = s.cfg) (hregs : u.regs = s.regs) (hmem : u.mem = s.mem)
    (hpc : u.pc = s.pc) (hrun : u.run = .running) (hhook : u.hook = none) (hdraws : u.csrDraws = s.csrDraws) :
    (u.dispose k).result = some (.error k) ∧ KeepsRegs s (u.dispose k) ∧ KeepsMem s (u.dispose k) ∧
      (u.dispose k).cfg = s.cfg ∧ (u.dispose k).hook = none ∧ (u.dispose k).csrDraws = s.csrDraws ∧
      (s.cfg.haltOnIllegal = true → (u.dispose k).run = .halted ∧ (u.dispose k).pc = s.pc) ∧
      (s.cfg.haltOnIllegal = false → (u.dispose k).run = .running ∧ (u.dispose k).pc = s.pc + 4#32) := by
  refine ⟨rfl, keepsRegs_of_eq hcfg hregs, keepsMem_of_eq hmem, hcfg, hhook, hdraws, fun hh => ?_, fun hh => ?_⟩ <;>
    simp [hcfg, hh, hpc, hrun]

/-- The hook after an execution holds the instruction's emission, when fetch has cleared it (R121, R295). -/
theorem hook_of_exec (h : exec i s = .next t) (hnone : s.hook = none) : t.hook = hookOf s i := by
  cases i
  case csrrw | csrrs | csrrc | csrrwi | csrrsi | csrrci => cases h; rfl
  all_goals
    cases h
    exact hnone

end Sys2Proof.Machine

namespace Sys2Proof

open Machine

/-- Settles O15: `step_of_aboutToRun`, and what fetch and decode set by their definitions. -/
theorem stepRunsTheDecodedInstruction : Obligations.StepRunsTheDecodedInstruction := fun _ _ h =>
  ⟨step_of_aboutToRun h, rfl, rfl, rfl, rfl, rfl, rfl, rfl, rfl, rfl, rfl, rfl⟩

/-- Settles O16: decode stages `pc + 4`, from which `pc_of_exec` gives R28's table; a rejected word leaves it staged. -/
theorem pcAfterEveryInstruction : Obligations.PcAfterEveryInstruction := by
  refine ⟨fun s i ha => ?_, fun s t h hp ⟨e, hd⟩ => ?_⟩
  · obtain ⟨t, ht, -, hpc, -⟩ := exec_effect i s.fetch.stage
    exact ⟨t, (step_of_aboutToRun ha).trans ht, (pc_of_exec ht rfl).trans (pcAfter_stage s i), hpc⟩
  · obtain ⟨hr, -⟩ := step_cases h
    rw [step_of_rejected hr hp hd] at h
    cases h
    rfl

/-- Settles O17: the disposal after fetch and decode. -/
theorem decodeErrorHaltsOrSkips : Obligations.DecodeErrorHaltsOrSkips := fun _ e hr hp hd =>
  ⟨_, step_of_rejected hr hp hd, dispose_outcome (kindOfDecodeError e) rfl rfl rfl rfl hr rfl rfl⟩

/-- Settles O18: the disposal after a fetch alone. -/
theorem fetchOutOfRangeHaltsOrSkips : Obligations.FetchOutOfRangeHaltsOrSkips := fun s hr hp =>
  ⟨_, step_of_fetchOutOfRange hr (s.fetch_outOfRange_iff.2 hp), dispose_outcome _ rfl rfl rfl rfl hr rfl rfl⟩

/-- Settles O19: `step_of_halted`. -/
theorem haltedHasNoStep : Obligations.HaltedHasNoStep := fun _ => step_of_halted

/-- Settles O21: disposal alone sets `run`, when HALT_ON_ILLEGAL is set; execution keeps it, and in Halted only the stop
and a load answer a next state. -/
theorem runStateTransitions : Obligations.RunStateTransitions := by
  refine fun s => ⟨fun t hr h => ?_, rfl, fun a t hr h => ?_⟩
  · obtain ⟨-, hc⟩ := step_cases h
    cases hc with
    | fetchOutOfRange hp ht =>
      subst ht
      simp [s.fetch_outOfRange_iff.1 hp, hr]
    | rejected e _ hd ht =>
      subst ht
      simp [hd, hr]
    | executed i ha he =>
      obtain ⟨t', ht', ⟨-, hrun, -⟩, -⟩ := exec_effect i s.fetch.stage
      cases he.symm.trans ht'
      obtain ⟨-, hp, hd⟩ := ha
      simp [hrun, hr, hd, s.fetch_inRange_iff.1 hp]
  · cases a with
    | step => simp [act, step_of_halted hr] at h
    | stop => cases h; rfl
    | load a b =>
      simp only [act, loadByte] at h
      split at h
      · cases h
      · split at h <;> cases h
        exact hr

/-- Settles O22: `result_of_step`, which follows R326's order through the three ways of a step. -/
theorem stepResultByPriority : Obligations.StepResultByPriority := fun _ _ => result_of_step

/-- Settles O23: only the disposal of a rejected word reports it, and dispatch rejects so for the opcode alone. -/
theorem illegalInstructionOnlyFromTheOpcode : Obligations.IllegalInstructionOnlyFromTheOpcode := by
  intro s t h
  obtain ⟨-, hc⟩ := step_cases h
  rw [← decode_eq_illegalInstruction_iff]
  cases hc with
  | fetchOutOfRange hp ht =>
    subst ht
    exact ⟨by simp [hp], fun _ => ⟨keepsRegs_of_eq rfl rfl, keepsMem_of_eq rfl⟩⟩
  | rejected e hp hd ht =>
    subst ht
    refine ⟨?_, fun _ => ⟨keepsRegs_of_eq rfl rfl, keepsMem_of_eq rfl⟩⟩
    cases e <;> simp [hp, hd, kindOfDecodeError]
  | executed i ha he =>
    obtain ⟨r, hr, hres⟩ := exists_execResult_of_exec he
    obtain ⟨-, -, hd⟩ := ha
    simp [hr, hres.ne_illegalInstruction, hd]

/-- Settles O38: fetch clears the hook, a disposed step leaves it so, and an executed one leaves what its instruction
emits. -/
theorem hookEmittedExactlyByCsrInstructions : Obligations.HookEmittedExactlyByCsrInstructions := by
  intro s t q h
  obtain ⟨-, hc⟩ := step_cases h
  cases hc with
  | fetchOutOfRange hp ht => subst ht; simp [hp]
  | rejected e _ hd ht => subst ht; simp [hd]
  | executed i ha he =>
    rw [hook_of_exec he rfl, hookOf_stage]
    refine ⟨fun hq => ⟨i, ha, hq⟩, fun ⟨j, hj, hq⟩ => ?_⟩
    rwa [ha.iff_eq.1 hj]

/-- Settles O27: a byte can differ only after a store, whose bytes `memWrite` does not leave. -/
theorem onlyStoresChangeMemory : Obligations.OnlyStoresChangeMemory := by
  intro s t b hm h hb
  obtain ⟨-, ⟨-, hmem⟩ | ⟨i, ha, hw⟩⟩ := writes_of_step h
  · rw [hmem] at hb; exact absurd rfl hb
  cases hw with
  | register rd v _ hmem => rw [hmem] at hb; exact absurd rfl hb
  | nothing _ hmem => rw [hmem] at hb; exact absurd rfl hb
  | bytes rs1 rs2 imm w hi _ hmem =>
    have hin : (s.readReg rs1 + imm).toNat ≤ b ∧ b < (s.readReg rs1 + imm).toNat + w.bytes := by
      by_contra hout
      rw [hmem, State.readByte_memWrite _ _ _ _ _ hm, if_neg fun h => hout h.2] at hb
      exact hb rfl
    refine ⟨i, rs1, rs2, imm, w.bytes, ha, ?_, hin⟩
    rcases hi with ⟨rfl, rfl⟩ | ⟨rfl, rfl⟩ | ⟨rfl, rfl⟩ <;> simp [Width.bytes]

/-- Settles O28: what `Writes` allows is one register, or the bytes of a store and no register. -/
theorem oneWritePerStep : Obligations.OneWritePerStep := by
  intro s t h
  obtain ⟨hcfg, ⟨hregs, -⟩ | ⟨i, -, hw⟩⟩ := writes_of_step h
  · exact ⟨⟨0#5, fun r _ => keepsRegs_of_eq hcfg hregs r⟩, fun _ => keepsRegs_of_eq hcfg hregs⟩
  cases hw with
  | register rd v hregs hmem =>
    refine ⟨⟨rd, fun r hr => ?_⟩, fun ⟨a, ha⟩ => absurd (by rw [hmem]) ha⟩
    rw [writesReg_of_eq hcfg hregs r, if_neg fun h => hr h.1]
  | bytes _ _ _ _ _ hregs _ =>
    exact ⟨⟨0#5, fun r _ => keepsRegs_of_eq hcfg hregs r⟩, fun _ => keepsRegs_of_eq hcfg hregs⟩
  | nothing hregs _ =>
    exact ⟨⟨0#5, fun r _ => keepsRegs_of_eq hcfg hregs r⟩, fun _ => keepsRegs_of_eq hcfg hregs⟩

end Sys2Proof
end

section
/-! The invariant of every reachable state, and the host's side of the interface (spec 10_state.md section 6,
40_pipeline_control.md sections 1 and 4, 70_reset_and_hazards.md section 1). -/

namespace Sys2Proof.Machine

variable {s t u : State} {a : HostAction}

/-! ## The invariant -/

/-- A step writes memory only by a store, which keeps the canonical form and the size bound. -/
theorem inv_of_step (hs : s.Inv) (h : step s = .next t) : t.Inv := by
  obtain ⟨hc, hwf, hin⟩ := hs
  obtain ⟨hcfg, ⟨-, hmem⟩ | ⟨i, -, hw⟩⟩ := writes_of_step h
  · exact ⟨hcfg ▸ hc, hmem ▸ hwf, hcfg ▸ hmem ▸ hin⟩
  cases hw with
  | register _ _ _ hmem | nothing _ hmem => exact ⟨hcfg ▸ hc, hmem ▸ hwf, hcfg ▸ hmem ▸ hin⟩
  | bytes rs1 rs2 imm w _ _ hmem =>
    have hin' := s.within_memWrite (s.readReg rs1 + imm) w (s.readReg rs2) hin
    exact ⟨hcfg ▸ hc, hmem ▸ s.wf_memWrite _ _ _ hwf, hcfg ▸ hmem ▸ hin'⟩

/-- A load that the block accepts writes one existing byte before the first step (R353). -/
theorem loadByte_cases {k : Nat} {b : Byte} (h : loadByte s k b = .next t) :
    s.hasStepped = false ∧ k < s.cfg.msize ∧ t = { s with mem := s.mem.writeByte k b } := by
  unfold loadByte at h
  split at h
  · cases h
  · split at h <;> cases h
    exact ⟨by simpa using ‹¬s.hasStepped = true›, ‹_›, rfl⟩

theorem inv_of_act (hs : s.Inv) (h : act s a = .next t) : t.Inv := by
  cases a with
  | step => exact inv_of_step hs h
  | stop => cases h; exact hs
  | load k b =>
    obtain ⟨-, hk, rfl⟩ := loadByte_cases h
    obtain ⟨hc, hwf, hin⟩ := hs
    exact ⟨hc, Memory.wf_writeByte k b hwf, Memory.within_writeByte k b hin hk⟩

theorem inv_of_reaches (hs : s.Inv) (h : Reaches s t) : t.Inv := by
  induction h with
  | start => exact hs
  | act a _ ha ih => exact inv_of_act ih ha

theorem hasStepped_of_reaches (hs : s.hasStepped = true) (h : Reaches s t) : t.hasStepped = true := by
  induction h with
  | start => exact hs
  | act a _ ha ih => exact hasStepped_of_act ih ha

theorem cfg_of_act (h : act s a = .next t) : t.cfg = s.cfg := by
  cases a with
  | step => exact (writes_of_step h).1
  | stop => cases h; rfl
  | load k b =>
    obtain ⟨-, -, rfl⟩ := loadByte_cases h
    rfl

/-! ## Construction (R350, R71) -/

theorem wf_iff_msize (cfg : Config) : cfg.wf = true ↔ 1 ≤ cfg.msize ∧ cfg.msize ≤ 2 ^ 32 := by
  simp [Config.wf]

/-- A block is constructed exactly from a legal configuration and an allocated memory, in the launch state. -/
theorem construct_eq_next_iff {allocated : Bool} {cfg : Config} {regs : Vector Word 32} {contents : List Host.Cell} :
    construct allocated cfg regs contents = .next s ↔
      cfg.wf = true ∧ allocated = true ∧ s = State.launch cfg regs (Memory.ofCells cfg.msize contents) := by
  cases hc : cfg.wf <;> cases allocated <;> simp [construct, hc, eq_comm]

/-- The first launch entry for an existing address is the byte there: later entries are written before it. -/
theorem Memory.readByte_ofCells {size k : Nat} {b : Byte} {cells : List Host.Cell} (hk : k < size)
    (h : cells.lookup k = some b) : (Memory.ofCells size cells).readByte k = b := by
  induction cells with
  | nil => cases h
  | cons c cells ih =>
    obtain ⟨c, d⟩ := c
    rw [List.lookup_cons] at h
    unfold Memory.ofCells
    by_cases hkc : k = c
    · subst hkc
      rw [if_pos hk, Memory.readByte_writeByte _ _ _ (Memory.wf_ofCells size cells), if_pos rfl]
      simpa using h
    · rw [beq_false_of_ne hkc] at h
      have hrest := ih h
      split
      · rw [Memory.readByte_writeByte _ _ _ (Memory.wf_ofCells size cells), if_neg hkc, hrest]
      · exact hrest

/-! ## Inspection (R137) -/

/-- An inspected range that does not end above `MSIZE` is given byte by byte. -/
theorem inspectRange_eq_some {k n : Nat} (h : k + n ≤ s.cfg.msize) :
    inspectRange s k n = some ((List.range n).map fun j => s.mem.readByte (k + j)) := if_pos h

end Sys2Proof.Machine

namespace Sys2Proof

open Machine

/-- Settles O29: the reset memory lists nothing and the default MSIZE is legal. -/
theorem resetMeetsTheInvariant : Obligations.ResetMeetsTheInvariant := ⟨rfl, rfl, rfl⟩

/-- Settles O30: `inv_of_step`. -/
theorem stepKeepsTheInvariant : Obligations.StepKeepsTheInvariant := fun _ _ => inv_of_step

/-- Settles O31: the launch contents are entered byte by byte into the empty memory, and every host action keeps the
invariant. -/
theorem everyReachedStateMeetsTheInvariant : Obligations.EveryReachedStateMeetsTheInvariant := by
  intro allocated cfg regs contents s t hs h
  obtain ⟨hc, -, rfl⟩ := construct_eq_next_iff.1 hs
  exact inv_of_reaches ⟨hc, Memory.wf_ofCells _ _, Memory.within_ofCells _ _⟩ h

/-- Settles O25: no step, stop or load writes the parameters. -/
theorem parametersNeverChange : Obligations.ParametersNeverChange := fun _ _ _ => cfg_of_act

/-- Settles O34: construction is decided by the two tests alone, and the launch bytes by `Memory.readByte_ofCells`. -/
theorem constructionSetsTheLaunchState : Obligations.ConstructionSetsTheLaunchState := by
  refine fun cfg regs contents => ⟨fun hlo hhi => ?_, fun hsize allocated => ?_⟩
  · have hc : cfg.wf = true := (wf_iff_msize cfg).2 ⟨hlo, hhi⟩
    refine ⟨⟨_, construct_eq_next_iff.2 ⟨hc, rfl, rfl⟩, rfl, rfl, rfl, rfl, rfl, fun k hk b hb => ?_⟩, ?_⟩
    · exact Memory.readByte_ofCells hk hb
    · simp [construct, hc]
  · have hc : ¬cfg.wf = true := fun h => by
      obtain ⟨hlo, hhi⟩ := (wf_iff_msize cfg).1 h
      omega
    simp [construct, hc]

/-- Settles O35: the stop updates `run` only, to the value a Halted block has. -/
theorem stopOnlyHalts : Obligations.StopOnlyHalts := fun s =>
  ⟨rfl, rfl, rfl, rfl, rfl, rfl, rfl, rfl, ⟨rfl, rfl⟩, keepsRegs_of_eq rfl rfl, keepsMem_of_eq rfl, fun h => by
    cases s
    cases h
    rfl⟩

/-- Settles O36: each inspection is decided by its bound. -/
theorem inspectionShowsTheState : Obligations.InspectionShowsTheState := fun s =>
  ⟨rfl, fun _ => rfl, fun _ ha => if_pos ha, fun _ ha => if_neg (Nat.not_lt.2 ha),
    fun _ n h => ⟨_, inspectRange_eq_some h, by simp, fun k hk => by simp [hk]⟩, fun _ _ h => if_neg (Nat.not_le.2 h)⟩

/-- Settles O37: an accepted load updates the memory field at its own address; a step leaves a result, which no later
action takes away, and with a result every load is refused. -/
theorem loaderWritesMemoryOnly : Obligations.LoaderWritesMemoryOnly := by
  refine fun s k b hm => ⟨fun hs hk => ?_, fun hs hk => ?_, fun t u h hu => ?_⟩
  · refine ⟨{ s with mem := s.mem.writeByte k b }, by simp [act, loadByte, hs, hk], ?_, fun c hc => ?_, rfl, rfl, rfl,
      rfl, ⟨rfl, rfl, rfl, rfl⟩, ⟨rfl, rfl⟩⟩
    · rw [Memory.readByte_writeByte k k b hm, if_pos rfl]
    · rw [Memory.readByte_writeByte k c b hm, if_neg hc]
  · simp [act, loadByte, hs, Nat.not_lt.2 hk]
  · simp [act, loadByte, hasStepped_of_reaches (hasStepped_of_step h) hu]

end Sys2Proof
end

section
/-! Loads and stores (spec 43_load_store.md): their effect on any operands, a store followed by a load, and a store
followed by the fetch of its word. -/

namespace Sys2Proof.Machine

variable {s t u : State} {rd : RegIdx} {ea v : Word} {w : Width}

/-! ## Widening as numbers (R8) -/

theorem sext_eq_signedValue {n : Nat} (v : Word) (hpos : 0 < n) (hn : n ≤ 32) :
    sext n v = BitVec.ofInt 32 (signedValue n (v.toNat % 2 ^ n)) := by
  rw [← BitVec.toNat_setWidth, ← toInt_signExtend_eq_signedValue _ hpos hn, BitVec.ofInt_toInt, sext]

theorem zext_eq_mod (n : Nat) (v : Word) : zext n v = BitVec.ofNat 32 (v.toNat % 2 ^ n) := by
  rw [← BitVec.toNat_setWidth, zext]
  apply BitVec.eq_of_toNat_eq
  simp

theorem ofNat_toNat_mod (v : Word) : BitVec.ofNat 32 (v.toNat % 2 ^ 32) = v := by
  rw [Nat.mod_eq_of_lt v.isLt, BitVec.ofNat_toNat, BitVec.setWidth_eq]

theorem byteVal_lt (s : State) (a : Word) (k : Nat) : s.byteVal a k < 256 := BitVec.isLt _

/-! ## Loads (R200, R133) -/

/-- In range a load writes the widened value and continues. -/
theorem load_inRange (widen : Word → Word) (h : ea.toNat + w.bytes ≤ s.cfg.msize) :
    WritesOnlyRd s (s.load rd ea w widen) rd (widen (s.memRead ea w)) .continued := by
  rw [← State.accessResult_of_inRange ((s.inRange_iff ea w).2 h)]
  exact s.load_effect rd ea w widen

/-- Out of range a load writes the widened 0 and reports it (D20). -/
theorem load_outOfRange {widen : Word → Word} (hwiden : widen 0#32 = 0#32) (h : ea.toNat + w.bytes > s.cfg.msize) :
    WritesOnlyRd s (s.load rd ea w widen) rd 0#32 (.error .addressOutOfRange) := by
  obtain ⟨hread, -, herror⟩ := State.access_out_of_range 0#32 ((s.inRange_false_iff ea w).2 h)
  have heffect := s.load_effect rd ea w widen
  rwa [hread, herror, hwiden] at heffect

/-! ## Stores (R206, R133) -/

/-- In range a store puts the low bytes of the value at its address, leaves every other byte, and continues. -/
theorem store_inRange (v : Word) (hm : s.mem.wf = true) (h : ea.toNat + w.bytes ≤ s.cfg.msize) :
    (∀ k < w.bytes, (s.store ea w v).byteVal ea k = v.toNat / 256 ^ k % 256) ∧
      KeepsMemOutside s (s.store ea w v) ea w.bytes ∧ KeepsRegs s (s.store ea w v) ∧
      KeepsControl s (s.store ea w v) ∧ KeepsCsr s (s.store ea w v) ∧ FallsThrough s (s.store ea w v) .continued := by
  have hin := (s.inRange_iff ea w).2 h
  obtain ⟨-, hregs, hcontrol, hcsr, hfalls⟩ := s.store_effect ea w v
  rw [State.accessResult_of_inRange hin] at hfalls
  exact ⟨fun k hk => State.byteVal_memWrite v hm hin hk, State.keepsMemOutside_memWrite ea w v hm, hregs, hcontrol, hcsr,
    hfalls⟩

/-- Out of range a store changes nothing and reports it (D20). -/
theorem store_outOfRange (v : Word) (h : ea.toNat + w.bytes > s.cfg.msize) :
    OnlyAdvances s (s.store ea w v) (.error .addressOutOfRange) := by
  obtain ⟨-, hsame, herror⟩ := State.access_out_of_range v ((s.inRange_false_iff ea w).2 h)
  rw [State.store, hsame, herror]
  exact s.commit_effect _

/-- The word at a store's address and width, read from the state after the store (R63). -/
theorem memRead_store (v : Word) (hm : s.mem.wf = true) (h : ea.toNat + w.bytes ≤ s.cfg.msize) :
    (s.store ea w v).memRead ea w = BitVec.ofNat 32 (v.toNat % 2 ^ (8 * w.bytes)) := by
  rw [← State.toNat_memRead_memWrite v hm ((s.inRange_iff ea w).2 h), BitVec.ofNat_toNat, BitVec.setWidth_eq]
  rfl

theorem memRead_store_word (v : Word) (hm : s.mem.wf = true) (h : ea.toNat + 4 ≤ s.cfg.msize) :
    (s.store ea .word v).memRead ea .word = v :=
  (memRead_store (w := .word) v hm h).trans (ofNat_toNat_mod v)

/-- A word stored where PC goes next is the word of the next fetch (R68). -/
theorem fetch_after_store (v : Word) (hm : s.mem.wf = true) (hnext : s.nextPc = ea) (h : ea.toNat + 4 ≤ s.cfg.msize) :
    (s.store ea .word v).nextWord = v ∧ ∀ u, step (s.store ea .word v) = .next u → u.ir = v := by
  have hpc : (s.store ea .word v).pc = ea := hnext
  have hin : (s.store ea .word v).inRange (s.store ea .word v).pc .word = true := by
    rw [State.inRange_iff, hpc]
    exact h
  have hword : (s.store ea .word v).nextWord = v := by
    rw [State.nextWord, hpc, memRead_store_word v hm h]
  refine ⟨hword, fun u hu => ?_⟩
  obtain ⟨hir, -⟩ := ir_decoded_of_step hu hin
  exact hir.trans hword

/-- A register write that follows a change of other fields is one from the state before it. -/
theorem WritesReg.of_keepsRegs (h : WritesReg t u rd v) (hcfg : t.cfg = s.cfg) (hkeeps : KeepsRegs s t) :
    WritesReg s u rd v := fun r => by
  rw [h r, hcfg, hkeeps r]

/-- A store and a load of the same address and width write the value's low bytes, widened, to `rd` (R207 to R209 with
R203 to R205). -/
theorem load_store_effect (v : Word) (widen : Word → Word) (hm : s.mem.wf = true)
    (h : ea.toNat + w.bytes ≤ s.cfg.msize) :
    WritesReg s ((s.store ea w v).load rd ea w widen) rd (widen (BitVec.ofNat 32 (v.toNat % 2 ^ (8 * w.bytes)))) := by
  obtain ⟨hwrites, -⟩ := (s.store ea w v).load_effect rd ea w widen
  obtain ⟨-, hregs, -⟩ := s.store_effect ea w v
  rw [memRead_store v hm h] at hwrites
  exact hwrites.of_keepsRegs rfl hregs

/-- Zero-extending the low bits leaves a value that has no others. -/
theorem zext_ofNat_mod (n m : Nat) (hn : n ≤ 32) :
    zext n (BitVec.ofNat 32 (m % 2 ^ n)) = BitVec.ofNat 32 (m % 2 ^ n) := by
  have hlt : m % 2 ^ n < 2 ^ 32 :=
    Nat.lt_of_lt_of_le (Nat.mod_lt _ (Nat.two_pow_pos n)) (Nat.pow_le_pow_right (by decide) hn)
  rw [zext_eq_mod, BitVec.toNat_ofNat, Nat.mod_eq_of_lt hlt, Nat.mod_mod]

end Sys2Proof.Machine

namespace Sys2Proof

open Machine

/-- Settles O33: `load_store_effect` at the three widths; LW widens nothing, LHU and LBU zero-extend what has no higher
bits. -/
theorem storeThenLoadReturnsTheValue : Obligations.StoreThenLoadReturnsTheValue := by
  intro s rd rs1 rs2 imm ⟨_, hm, _⟩
  refine ⟨fun h => ⟨_, _, rfl, rfl, ?_⟩, fun h => ⟨_, _, rfl, rfl, ?_⟩, fun h => ⟨_, _, rfl, rfl, ?_⟩⟩
  · have heffect := load_store_effect (rd := rd) (w := .word) (s.readReg rs2) id hm h
    rwa [id, show 8 * Width.word.bytes = 32 from rfl, ofNat_toNat_mod] at heffect
  · have heffect := load_store_effect (rd := rd) (w := .half) (s.readReg rs2) (zext 16) hm h
    rwa [show 8 * Width.half.bytes = 16 from rfl, zext_ofNat_mod 16 _ (by decide)] at heffect
  · have heffect := load_store_effect (rd := rd) (w := .byte) (s.readReg rs2) (zext 8) hm h
    rwa [show 8 * Width.byte.bytes = 8 from rfl, zext_ofNat_mod 8 _ (by decide)] at heffect

/-- Settles O32: fetch reads the same memory as data accesses do. -/
theorem nextFetchSeesTheStore : Obligations.NextFetchSeesTheStore := by
  intro s rs1 rs2 imm ⟨_, hm, _⟩ ha h
  exact ⟨_, (step_of_aboutToRun ha).trans rfl, memRead_store_word (s := s.fetch.stage) (s.readReg rs2) hm h,
    fun hnext => fetch_after_store (s := s.fetch.stage) (s.readReg rs2) hm hnext.symm h⟩

/-- Settles O44: the bytes read, widened by sign, by zero, or not at all. -/
theorem loadsReadMemoryInRange : Obligations.LoadsReadMemoryInRange := by
  intro s rd rs1 imm ea
  have in1 (h : ea.toNat + 1 ≤ s.cfg.msize) := State.toNat_memRead_byte ((s.inRange_iff ea .byte).2 h)
  have in2 (h : ea.toNat + 2 ≤ s.cfg.msize) := State.toNat_memRead_half ((s.inRange_iff ea .half).2 h)
  have in4 (h : ea.toNat + 4 ≤ s.cfg.msize) := State.toNat_memRead_word ((s.inRange_iff ea .word).2 h)
  have h0 := byteVal_lt s ea 0
  have h1 := byteVal_lt s ea 1
  refine ⟨fun h => ⟨_, rfl, ?_⟩, fun h => ⟨_, rfl, ?_⟩, fun h => ⟨_, rfl, ?_⟩, fun h => ⟨_, rfl, ?_⟩,
    fun h => ⟨_, rfl, ?_⟩⟩
  · have heffect := load_inRange (rd := rd) (w := .byte) (sext 8) h
    rwa [sext_eq_signedValue _ (by decide) (by decide), in1 h, Nat.mod_eq_of_lt (by omega)] at heffect
  · have heffect := load_inRange (rd := rd) (w := .half) (sext 16) h
    rwa [sext_eq_signedValue _ (by decide) (by decide), in2 h, Nat.mod_eq_of_lt (by omega)] at heffect
  · have heffect := load_inRange (rd := rd) (w := .word) id h
    rwa [id, ← BitVec.setWidth_eq (s.memRead ea .word), ← BitVec.ofNat_toNat, in4 h] at heffect
  · have heffect := load_inRange (rd := rd) (w := .byte) (zext 8) h
    rwa [zext_eq_mod, in1 h, Nat.mod_eq_of_lt (by omega)] at heffect
  · have heffect := load_inRange (rd := rd) (w := .half) (zext 16) h
    rwa [zext_eq_mod, in2 h, Nat.mod_eq_of_lt (by omega)] at heffect

/-- Settles O45: each widening takes 0 to 0. -/
theorem loadsOutOfRangeWriteZero : Obligations.LoadsOutOfRangeWriteZero := fun _ _ _ _ =>
  ⟨fun h => ⟨_, rfl, load_outOfRange (by decide) h⟩, fun h => ⟨_, rfl, load_outOfRange (by decide) h⟩,
    fun h => ⟨_, rfl, load_outOfRange rfl h⟩, fun h => ⟨_, rfl, load_outOfRange (by decide) h⟩,
    fun h => ⟨_, rfl, load_outOfRange (by decide) h⟩⟩

/-- Settles O46: `store_inRange` at the three widths. -/
theorem storesWriteTheirBytes : Obligations.StoresWriteTheirBytes := by
  intro s rs1 rs2 imm hm ea
  refine ⟨fun h => ⟨_, rfl, ?_⟩, fun h => ⟨_, rfl, ?_⟩, fun h => ⟨_, rfl, ?_⟩⟩
  · obtain ⟨hbyte, hrest⟩ := store_inRange (w := .byte) (s.readReg rs2) hm h
    exact ⟨hbyte 0 (by decide), hrest⟩
  · obtain ⟨hbyte, hrest⟩ := store_inRange (w := .half) (s.readReg rs2) hm h
    exact ⟨hbyte 0 (by decide), hbyte 1 (by decide), hrest⟩
  · obtain ⟨hbyte, hrest⟩ := store_inRange (w := .word) (s.readReg rs2) hm h
    exact ⟨hbyte 0 (by decide), hbyte 1 (by decide), hbyte 2 (by decide), hbyte 3 (by decide), hrest⟩

/-- Settles O47: `store_outOfRange` at the three widths. -/
theorem storesOutOfRangeChangeNothing : Obligations.StoresOutOfRangeChangeNothing := fun _ _ _ _ =>
  ⟨fun h => ⟨_, rfl, store_outOfRange _ h⟩, fun h => ⟨_, rfl, store_outOfRange _ h⟩,
    fun h => ⟨_, rfl, store_outOfRange _ h⟩⟩

end Sys2Proof
end

section
/-! The instructions one by one (spec 41_upper_immediate.md to 46_fence_system.md): each is a use of its operation's
effect with the value it computes given as a number. -/

namespace Sys2Proof.Machine

variable {s t u : State} {rd rs1 rs2 : RegIdx}

/-! ## What the ALU computes, as numbers (R120) -/

section

variable (a b : Word)

theorem add_eq_ofNat : a + b = BitVec.ofNat 32 (a.toNat + b.toNat) := BitVec.add_def ..

theorem alu_add : alu .add a b = BitVec.ofNat 32 (a.toNat + b.toNat) := add_eq_ofNat a b

theorem alu_sub : alu .sub a b = BitVec.ofInt 32 (a.toInt - b.toInt) := by
  apply BitVec.eq_of_toInt_eq
  simp [alu, BitVec.toInt_sub]

theorem alu_slt : alu .slt a b = if a.toInt < b.toInt then 1#32 else 0#32 := by
  simp [alu, flagWord]

theorem alu_sltu : alu .sltu a b = if a.toNat < b.toNat then 1#32 else 0#32 := by
  simp [alu, flagWord]

theorem alu_xor : alu .xor a b = BitVec.ofNat 32 (a.toNat ^^^ b.toNat) := by
  rw [← BitVec.toNat_xor, BitVec.ofNat_toNat, BitVec.setWidth_eq, alu]

theorem alu_or : alu .or a b = BitVec.ofNat 32 (a.toNat ||| b.toNat) := by
  rw [← BitVec.toNat_or, BitVec.ofNat_toNat, BitVec.setWidth_eq, alu]

theorem alu_and : alu .and a b = BitVec.ofNat 32 (a.toNat &&& b.toNat) := by
  rw [← BitVec.toNat_and, BitVec.ofNat_toNat, BitVec.setWidth_eq, alu]

theorem alu_sll : alu .sll a b = BitVec.ofNat 32 (a.toNat * 2 ^ (b.toNat % 32)) := by
  rw [alu, shiftAmount_eq_mod, shiftLeft_eq_mul]

theorem alu_srl : alu .srl a b = BitVec.ofNat 32 (a.toNat / 2 ^ (b.toNat % 32)) := by
  rw [alu, shiftAmount_eq_mod, shiftRight_eq_div]

theorem alu_sra : alu .sra a b = BitVec.ofInt 32 (a.toInt / 2 ^ (b.toNat % 32)) := by
  rw [alu, shiftAmount_eq_mod, sshiftRight_eq_div]

/-- A 5-bit shift amount is its own value modulo 32 (R88). -/
theorem toNat_shamt_mod (shamt : BitVec 5) : (shamt.setWidth 32).toNat % 32 = shamt.toNat := by
  rw [BitVec.toNat_setWidth_of_le (by decide), Nat.mod_eq_of_lt shamt.isLt]

end

theorem aluImm_writes {op : AluOp} {b v : Word} (h : alu op (s.readReg rs1) b = v) :
    WritesOnlyRd s (s.aluImm op rd rs1 b) rd v .continued := h ▸ s.aluImm_effect op rd rs1 b

theorem aluReg_writes {op : AluOp} {v : Word} (h : alu op (s.readReg rs1) (s.readReg rs2) = v) :
    WritesOnlyRd s (s.aluReg op rd rs1 rs2) rd v .continued := h ▸ s.aluReg_effect op rd rs1 rs2

/-! ## Branches (R172) -/

/-- A branch whose condition says `P` goes to its target, modulo 2^32, exactly when `P` holds. -/
theorem branch_jumps {c : BranchCond} {imm : Word} {P : Prop} [Decidable P]
    (h : c.holds (s.readReg rs1) (s.readReg rs2) = true ↔ P) :
    KeepsRegs s (s.branch c rs1 rs2 imm) ∧ JumpsTo s (s.branch c rs1 rs2 imm)
      (if P then BitVec.ofNat 32 (s.pc.toNat + imm.toNat) else s.nextPc) := by
  rw [← add_eq_ofNat, ← if_congr h rfl rfl]
  exact s.branch_effect c rs1 rs2 imm

/-! ## Writes to x0 and writes in sequence -/

/-- An instruction that only writes the hardwired register only advances (R22). -/
theorem WritesOnlyRd.onlyAdvances_zero {v : Word} {r : StepResult} (h : WritesOnlyRd s t 0#5 v r)
    (hz : s.cfg.reg0Hardwired = true) : OnlyAdvances s t r := by
  obtain ⟨hreg, hrest⟩ := h
  exact ⟨hreg.keepsRegs_zero hz, hrest⟩

/-- The second of two writes to one register decides, unless it is the hardwired one, which neither writes. -/
theorem WritesReg.trans {v v' : Word} (h : WritesReg s t rd v) (hcfg : t.cfg = s.cfg)
    (h' : WritesReg t u rd (t.readReg rd + v')) : WritesReg s u rd (v + v') := fun r => by
  rw [h' r, hcfg]
  split
  · rename_i hr
    rw [h rd, if_pos ⟨rfl, hr.2⟩]
  · rename_i hr
    rw [h r, if_neg hr]

/-! ## The two parts of a constant (R99) -/

/-- The upper part is the upper immediate of the rounded constant. -/
theorem upperPart_eq_immUOf (imm : Word) : upperPart imm = immUOf (imm + 0x800#32) := by
  apply BitVec.eq_of_getLsbD_eq
  intro i hi
  simp only [upperPart, immUOf, BitVec.getLsbD_and, BitVec.getLsbD_append, BitVec.getLsbD_extractLsb']
  interval_cases i <;> simp

/-- Rounding up by half of 4096 makes up for the sign of the low 12 bits. -/
theorem upperPart_add_lowerPart (imm : Word) : upperPart imm + lowerPart imm = imm := by
  have hlow : lowerPart imm = BitVec.ofInt 32 (signedValue 12 (imm.toNat % 4096)) :=
    sext_eq_signedValue imm (by decide) (by decide)
  apply BitVec.eq_of_toNat_eq
  rw [BitVec.toNat_add, upperPart_eq_immUOf, toNat_immUOf, BitVec.toNat_add, hlow, BitVec.toNat_ofInt, signedValue]
  have himm := imm.isLt
  simp only [BitVec.toNat_ofNat]
  split <;> omega

end Sys2Proof.Machine

namespace Sys2Proof

open Machine

/-- Settles O40: a write and commit of `pc + imm`. -/
theorem auipcAddsToThePc : Obligations.AuipcAddsToThePc := fun s rd imm =>
  ⟨_, rfl, add_eq_ofNat s.pc imm ▸ s.writeAndCommit_effect rd _⟩

/-- Settles O41: the link and the target of `State.jumpAndLink_effect`. -/
theorem jalLinksAndJumps : Obligations.JalLinksAndJumps := fun s rd imm =>
  ⟨_, rfl, add_eq_ofNat s.pc imm ▸ s.jumpAndLink_effect rd _⟩

/-- Settles O42: the target is computed before the link is written. -/
theorem jalrJumpsToTheOldRegister : Obligations.JalrJumpsToTheOldRegister := fun s rd rs1 imm =>
  ⟨_, rfl, add_eq_ofNat (s.readReg rs1) imm ▸ s.jumpAndLink_effect rd _⟩

/-- Settles O43: `branch_jumps` for the six conditions. -/
theorem branchesCompareAndJump : Obligations.BranchesCompareAndJump := fun _ _ _ _ =>
  ⟨⟨_, rfl, branch_jumps (holds_eq_iff _ _)⟩, ⟨_, rfl, branch_jumps (holds_ne_iff _ _)⟩,
    ⟨_, rfl, branch_jumps (holds_lt_iff _ _)⟩, ⟨_, rfl, branch_jumps (holds_ge_iff _ _)⟩,
    ⟨_, rfl, branch_jumps (holds_ltu_iff _ _)⟩, ⟨_, rfl, branch_jumps (holds_geu_iff _ _)⟩⟩

/-- Settles O48: the ALU's sum and comparisons of a register and the immediate. -/
theorem addImmediateAndCompares : Obligations.AddImmediateAndCompares := fun _ _ _ _ =>
  ⟨⟨_, rfl, aluImm_writes (alu_add ..)⟩, ⟨_, rfl, aluImm_writes (alu_slt ..)⟩, ⟨_, rfl, aluImm_writes (alu_sltu ..)⟩⟩

/-- Settles O49: the ALU's bitwise operations on a register and the immediate. -/
theorem logicImmediates : Obligations.LogicImmediates := fun _ _ _ _ =>
  ⟨⟨_, rfl, aluImm_writes (alu_xor ..)⟩, ⟨_, rfl, aluImm_writes (alu_or ..)⟩, ⟨_, rfl, aluImm_writes (alu_and ..)⟩⟩

/-- Settles O50: the ALU's shifts by the 5-bit field. -/
theorem shiftImmediates : Obligations.ShiftImmediates := by
  intro s rd rs1 shamt
  rw [← toNat_shamt_mod shamt]
  exact ⟨⟨_, rfl, aluImm_writes (alu_sll ..)⟩, ⟨_, rfl, aluImm_writes (alu_srl ..)⟩,
    ⟨_, rfl, aluImm_writes (alu_sra ..)⟩⟩

/-- Settles O51: the ALU's sum and difference of two registers. -/
theorem addAndSubtract : Obligations.AddAndSubtract := fun _ _ _ _ =>
  ⟨⟨_, rfl, aluReg_writes (alu_add ..)⟩, ⟨_, rfl, aluReg_writes (alu_sub ..)⟩⟩

/-- Settles O52: the ALU's comparisons of two registers. -/
theorem registerCompares : Obligations.RegisterCompares := fun _ _ _ _ =>
  ⟨⟨_, rfl, aluReg_writes (alu_slt ..)⟩, ⟨_, rfl, aluReg_writes (alu_sltu ..)⟩⟩

/-- Settles O53: the ALU's bitwise operations on two registers. -/
theorem registerLogic : Obligations.RegisterLogic := fun _ _ _ _ =>
  ⟨⟨_, rfl, aluReg_writes (alu_xor ..)⟩, ⟨_, rfl, aluReg_writes (alu_or ..)⟩, ⟨_, rfl, aluReg_writes (alu_and ..)⟩⟩

/-- Settles O54: the ALU's shifts by the low five bits of a register. -/
theorem registerShifts : Obligations.RegisterShifts := fun _ _ _ _ =>
  ⟨⟨_, rfl, aluReg_writes (alu_sll ..)⟩, ⟨_, rfl, aluReg_writes (alu_srl ..)⟩, ⟨_, rfl, aluReg_writes (alu_sra ..)⟩⟩

/-- Settles O55: a fence is a bare commit, and a step stages `pc + 4` for it. -/
theorem fencesOnlyAdvance : Obligations.FencesOnlyAdvance := by
  intro s rd rs1 fields
  refine ⟨⟨_, rfl, s.commit_effect .continued⟩, ⟨_, rfl, s.commit_effect .continued⟩, fun i hi ha => ?_⟩
  have hexec : exec i s.fetch.stage = .next (s.fetch.stage.commit .continued) := by
    rcases hi with rfl | rfl <;> rfl
  exact ⟨_, (step_of_aboutToRun ha).trans hexec, keepsRegs_of_eq rfl rfl, keepsMem_of_eq rfl, rfl, rfl⟩

/-- Settles O56: a trap is a commit with the trap as its result. -/
theorem ecallAndEbreakTrap : Obligations.EcallAndEbreakTrap := fun s =>
  ⟨⟨_, rfl, s.takeTrap_effect .ecall⟩, ⟨_, rfl, s.takeTrap_effect .ebreak⟩⟩

/-- Settles O57: `State.csrAccess_effect` with the old register as source. -/
theorem csrRegisterFormsEmitAndDraw : Obligations.CsrRegisterFormsEmitAndDraw := fun s _ _ _ =>
  ⟨⟨_, rfl, s.csrAccess_effect ..⟩, ⟨_, rfl, s.csrAccess_effect ..⟩, ⟨_, rfl, s.csrAccess_effect ..⟩⟩

/-- Settles O58: `State.csrAccess_effect` with `zimm` as source. -/
theorem csrImmediateFormsEmitAndDraw : Obligations.CsrImmediateFormsEmitAndDraw := fun s _ _ _ =>
  ⟨⟨_, rfl, s.csrAccess_effect ..⟩, ⟨_, rfl, s.csrAccess_effect ..⟩, ⟨_, rfl, s.csrAccess_effect ..⟩⟩

/-- Settles O59: the NOP writes to x0 what x0 reads; a write to the hardwired x0 is discarded. -/
theorem nopOnlyAdvances : Obligations.NopOnlyAdvances := by
  refine fun s => ⟨?_, fun hz rs1 rs2 imm shamt i hi => ?_⟩
  · have hadd : alu .add (s.readReg 0#5) 0#32 = s.readReg 0#5 := BitVec.add_zero _
    obtain ⟨hreg, hrest⟩ := aluImm_writes (rd := 0#5) hadd
    exact ⟨_, rfl, hreg.keepsRegs_self, hrest⟩
  · rcases List.mem_append.1 hi with hi | hi
    · fin_cases hi
      all_goals exact ⟨_, rfl, (s.aluImm_effect ..).onlyAdvances_zero hz⟩
    · fin_cases hi
      all_goals exact ⟨_, rfl, (s.aluReg_effect ..).onlyAdvances_zero hz⟩

/-- Settles O60: ADDI adds a constant that fits to the 0 of x0; for any other, LUI and ADDI write its two parts, one after
the other, to the same register. -/
theorem loadImmediatePseudoBuildsTheConstant : Obligations.LoadImmediatePseudoBuildsTheConstant := by
  intro s rd imm h0
  by_cases hfits : fitsSigned12 imm = true
  · have hadd : alu .add (s.readReg 0#5) imm = imm := by rw [h0]; exact BitVec.zero_add imm
    obtain ⟨hreg, hmem, -⟩ := aluImm_writes (rd := rd) hadd
    rw [Pseudo.expand, if_pos hfits]
    exact ⟨by simp [Instr.wf, hfits], _, rfl, hreg, hmem⟩
  · obtain ⟨hlui, hmem, ⟨hcfg, -⟩, -⟩ := s.writeAndCommit_effect rd (upperPart imm)
    obtain ⟨haddi, hmem', -⟩ := (s.writeAndCommit rd (upperPart imm)).aluImm_effect .add rd rd (lowerPart imm)
    have hreg := hlui.trans hcfg haddi
    rw [upperPart_add_lowerPart] at hreg
    rw [Pseudo.expand, if_neg hfits]
    refine ⟨?_, _, rfl, hreg, fun a => (hmem' a).trans (hmem a)⟩
    simp [Instr.wf, upperPart_eq_immUOf, fitsUpper_immUOf, lowerPart, fitsSigned12_signExtend]

end Sys2Proof
end
